-- ==== Sys2Proof/Word.lean ====
section
/-! DEFINITION. The two sizes of data the machine moves (spec/00_scope.md R8, R9): bytes and 16-bit words.
Addition and subtraction of words wrap modulo 2^16, which is BitVec's own arithmetic (R9, decision D3, log 18). -/

namespace Sys2Proof

/-- A byte, 8 bits (R8). -/
abbrev Byte := BitVec 8

/-- A word, 16 bits (R8): the contents of a register, an address, a long immediate, an instruction word. -/
abbrev Word := BitVec 16

end Sys2Proof
end

