-- ==== Sys2Proof/Config.lean ====
section
/-! DEFINITION. What the manual leaves to the platform (spec/00_scope.md R7), as plain data, and the one free value. -/

namespace Sys2Proof

/-- What an address holds (spec/20_memory.md R58). -/
inductive MemKind where
  | ram      -- readable and writable
  | rom      -- readable, not writable by the program
  | absent   -- nothing there (the spec's `none`)
deriving DecidableEq, Repr

/-- A run of addresses, both ends included, of one kind. -/
structure Region where
  first : Nat
  last  : Nat
  kind  : MemKind
deriving DecidableEq, Repr

/-- `COND_FALSE_LONG_ADVANCE` (R7, R85, decision D1): how far the program counter moves over a long form whose
condition fails. -/
inductive FalseLongAdvance where
  | four   -- the spec's default
  | two
deriving DecidableEq, Repr

/-- `CALL_IMM_RETURN` (R7, R202, decision D2): the return address CALL pushes in its long form. -/
inductive CallImmReturn where
  | nextInstruction    -- the spec's default
  | immediateAddress   -- what the printed listing does
deriving DecidableEq, Repr

/-- The parameters of the machine (R7, R40). They are inputs of the step, not state of the hardware; State carries
them unchanged, so that a statement about every state holds for every platform (log 33). -/
structure Platform where
  memMap           : List Region
  falseLongAdvance : FalseLongAdvance
  callImmReturn    : CallImmReturn
deriving DecidableEq, Repr

/-- RAM at every address, the other two at the spec's defaults. DESIGN CHOICE for the map (log 7), the spec's
defaults for the rest (logs 8, 9). -/
def Platform.standard : Platform :=
  { memMap := [{ first := 0, last := 0xFFFF, kind := .ram }], falseLongAdvance := .four,
    callImmReturn := .nextInstruction }

/-- The free values: the n-th value the machine takes where the spec describes none (log 14: the hidden registers A
and B after an instruction whose condition failed, spec/48_microcode.md R278). No proof can learn what it is. -/
opaque Config.freeWord : Nat → Word

end Sys2Proof
end

