-- ==== Sys2Proof/Syntax.lean ====
section
/-! DEFINITION. The syntax of the public instruction set (spec/30_encoding.md): register names, conditions, the 32
opcodes, and one constructor of Instr for each of the 91 rows of spec/opcode_table.json (83 forms and the 8 rows of
reserved forms).

A long-immediate form does not carry its 16-bit operand: it is a word in memory after the instruction word, read
during the instruction at the moment R55 and R100 give (CALL reads it after its push, SEX and FLG read one byte of
it), so its meaning reads it from memory (log 13). -/

namespace Sys2Proof

/-- The eight general registers (R21); `sp` is also R7. -/
inductive Reg where
  | r0 | r1 | r2 | r3 | r4 | r5 | r6 | sp
deriving DecidableEq, Repr

/-- The sixteen conditions, in the order of their codes (R84). `always` has no suffix, `never` is the suffix f. -/
inductive Cond where
  | always | c | n | v | z | ls | lt | le
  | never | cc | p | nv | nz | hi | ge | gt
deriving DecidableEq, Repr

/-- The 32 opcodes, in the order of their codes (R83). -/
inductive Opcode where
  | ld | ldi | sti | neg | sex | offs | cmp | xcg
  | clz | ctz | cbs | flg | push | pop | j | call
  | andOp | orOp | xor | notOp | add | adc | sub | sbc
  | ror | rol | rrc | rlc | lsr | lsl | asr | ret
deriving DecidableEq, Repr

/-- The addressing mode of a form, the two-bit mode select of R87 (0, 1, 2, 3). -/
inductive Mode where
  | register | shortImmediate | longImmediate | interrupt
deriving DecidableEq, Repr

/-- One constructor per row of spec/opcode_table.json. `cond` is the condition (R84), `rd` and `rs` the registers of the
destination and source fields (R82), `imm` the embedded three-bit immediate (R89, R90), and `src` the raw source field
of a reserved form (R96). -/
inductive Instr where
  -- LD, Load Direct (R120)
  | ldReg (cond : Cond) (rd rs : Reg)
  | ldShort (cond : Cond) (rd : Reg) (imm : BitVec 3)
  | ldLong (cond : Cond) (rd : Reg)
  -- LDI, Load Indirect (R121)
  | ldiReg (cond : Cond) (rd rs : Reg)
  | ldiLong (cond : Cond) (rd : Reg)
  | ldiReserved (cond : Cond) (rd : Reg) (src : BitVec 3)
  -- STI, Store Indirect (R122)
  | stiByte (cond : Cond) (rd rs : Reg)
  | stiWord (cond : Cond) (rd rs : Reg)
  -- NEG, Negate (R130)
  | negReg (cond : Cond) (rd rs : Reg)
  | negShort (cond : Cond) (rd : Reg) (imm : BitVec 3)
  | negLong (cond : Cond) (rd : Reg)
  -- SEX, Sign-Extend Low-Order Byte (R131)
  | sexReg (cond : Cond) (rd rs : Reg)
  | sexShort (cond : Cond) (rd : Reg) (imm : BitVec 3)
  | sexLong (cond : Cond) (rd : Reg)
  -- OFFS, Program Counter Offset (R132)
  | offsReg (cond : Cond) (rd rs : Reg)
  | offsShort (cond : Cond) (rd : Reg) (imm : BitVec 3)
  | offsLong (cond : Cond) (rd : Reg)
  -- CMP, Compare (R133)
  | cmpReg (cond : Cond) (rd rs : Reg)
  | cmpShort (cond : Cond) (rd : Reg) (imm : BitVec 3)
  | cmpLong (cond : Cond) (rd : Reg)
  -- XCG, Exchange Contents of Registers (R210)
  | xcg (cond : Cond) (rd rs : Reg)
  | xcgReserved (cond : Cond) (rd : Reg) (src : BitVec 3)
  -- CLZ, Count Leading Zeros (R150)
  | clzReg (cond : Cond) (rd rs : Reg)
  | clzShort (cond : Cond) (rd : Reg) (imm : BitVec 3)
  | clzLong (cond : Cond) (rd : Reg)
  -- CTZ, Count Trailing Zeros (R151)
  | ctzReg (cond : Cond) (rd rs : Reg)
  | ctzShort (cond : Cond) (rd : Reg) (imm : BitVec 3)
  | ctzLong (cond : Cond) (rd : Reg)
  -- CBS, Count Bits Set (R152)
  | cbsReg (cond : Cond) (rd rs : Reg)
  | cbsShort (cond : Cond) (rd : Reg) (imm : BitVec 3)
  | cbsLong (cond : Cond) (rd : Reg)
  -- FLG, Transfer Flags (R211)
  | flgReg (cond : Cond) (rd rs : Reg)
  | flgLong (cond : Cond) (rd : Reg)
  | flgReserved (cond : Cond) (rd : Reg) (src : BitVec 3)
  -- PUSH, Push to Stack (R190)
  | push (cond : Cond) (rs : Reg)
  | pushReserved (cond : Cond) (rd : Reg) (src : BitVec 3)
  -- POP, Pop From Stack (R191)
  | pop (cond : Cond) (rd : Reg)
  | popReserved (cond : Cond) (rd : Reg) (src : BitVec 3)
  -- J, Jump (R200)
  | jReg (cond : Cond) (rs : Reg)
  | jLong (cond : Cond)
  | jReserved (cond : Cond) (rd : Reg) (src : BitVec 3)
  -- CALL, Jump to Subroutine (R201)
  | callReg (cond : Cond) (rs : Reg)
  | callLong (cond : Cond)
  | callReserved (cond : Cond) (rd : Reg) (src : BitVec 3)
  -- AND, Bitwise Logical AND (R160)
  | andReg (cond : Cond) (rd rs : Reg)
  | andShort (cond : Cond) (rd : Reg) (imm : BitVec 3)
  | andLong (cond : Cond) (rd : Reg)
  -- OR, Bitwise Logical Inclusive-OR (R161)
  | orReg (cond : Cond) (rd rs : Reg)
  | orShort (cond : Cond) (rd : Reg) (imm : BitVec 3)
  | orLong (cond : Cond) (rd : Reg)
  -- XOR, Bitwise Logical Exclusive-OR (R162)
  | xorReg (cond : Cond) (rd rs : Reg)
  | xorShort (cond : Cond) (rd : Reg) (imm : BitVec 3)
  | xorLong (cond : Cond) (rd : Reg)
  -- NOT, Logical Complement (R163)
  | notReg (cond : Cond) (rd rs : Reg)
  | notShort (cond : Cond) (rd : Reg) (imm : BitVec 3)
  | notLong (cond : Cond) (rd : Reg)
  -- ADD, Add (R134)
  | addReg (cond : Cond) (rd rs : Reg)
  | addShort (cond : Cond) (rd : Reg) (imm : BitVec 3)
  | addLong (cond : Cond) (rd : Reg)
  -- ADC, Add With Carry (R135)
  | adcReg (cond : Cond) (rd rs : Reg)
  | adcShort (cond : Cond) (rd : Reg) (imm : BitVec 3)
  | adcLong (cond : Cond) (rd : Reg)
  -- SUB, Subtract (R136)
  | subReg (cond : Cond) (rd rs : Reg)
  | subShort (cond : Cond) (rd : Reg) (imm : BitVec 3)
  | subLong (cond : Cond) (rd : Reg)
  -- SBC, Subtract With Carry (R137)
  | sbcReg (cond : Cond) (rd rs : Reg)
  | sbcShort (cond : Cond) (rd : Reg) (imm : BitVec 3)
  | sbcLong (cond : Cond) (rd : Reg)
  -- ROR, Rotate Right (R170)
  | rorReg (cond : Cond) (rd rs : Reg)
  | rorShort (cond : Cond) (rd : Reg) (imm : BitVec 3)
  | rorLong (cond : Cond) (rd : Reg)
  -- ROL, Rotate Left (R171)
  | rolReg (cond : Cond) (rd rs : Reg)
  | rolShort (cond : Cond) (rd : Reg) (imm : BitVec 3)
  | rolLong (cond : Cond) (rd : Reg)
  -- RRC, Rotate Right Through Carry (R172)
  | rrcReg (cond : Cond) (rd rs : Reg)
  | rrcShort (cond : Cond) (rd : Reg) (imm : BitVec 3)
  | rrcLong (cond : Cond) (rd : Reg)
  -- RLC, Rotate Left Through Carry (R173)
  | rlcReg (cond : Cond) (rd rs : Reg)
  | rlcShort (cond : Cond) (rd : Reg) (imm : BitVec 3)
  | rlcLong (cond : Cond) (rd : Reg)
  -- LSR, Logical Shift Right (R174)
  | lsrReg (cond : Cond) (rd rs : Reg)
  | lsrShort (cond : Cond) (rd : Reg) (imm : BitVec 3)
  | lsrLong (cond : Cond) (rd : Reg)
  -- LSL, Logical Shift Left (R175)
  | lslReg (cond : Cond) (rd rs : Reg)
  | lslShort (cond : Cond) (rd : Reg) (imm : BitVec 3)
  | lslLong (cond : Cond) (rd : Reg)
  -- ASR, Arithmetic Shift Right (R176)
  | asrReg (cond : Cond) (rd rs : Reg)
  | asrShort (cond : Cond) (rd : Reg) (imm : BitVec 3)
  | asrLong (cond : Cond) (rd : Reg)
  -- RET, Return From Subroutine (R203)
  | ret (cond : Cond)
  | retReserved (cond : Cond) (rd : Reg) (src : BitVec 3)
deriving DecidableEq, Repr

end Sys2Proof
end

