-- ==== Sys2Proof/WellFormed.lean ====
section
/-! DEFINITION. Which terms of Instr stand for a word of the instruction set. -/

namespace Sys2Proof

/-- The source fields that mark the long immediate: 100 outside the shifts and rotates, 000 in them (R87, R91). -/
def signedMarker : BitVec 3 := 0b100#3
def unsignedMarker : BitVec 3 := 0b000#3

/-- A term is well formed when its fields can stand in the instruction word of its row: a signed short immediate is
not the pattern 100 (R89), a shift count is not 000 (R90), and a reserved form of LDI, FLG, J or CALL does not have the
long marker 100 (R96). Every other field is free. -/
def Instr.wellFormed (i : Instr) : Bool :=
  match i with
  | .ldShort _ _ imm | .negShort _ _ imm | .sexShort _ _ imm | .offsShort _ _ imm | .cmpShort _ _ imm
  | .clzShort _ _ imm | .ctzShort _ _ imm | .cbsShort _ _ imm | .andShort _ _ imm | .orShort _ _ imm
  | .xorShort _ _ imm | .notShort _ _ imm | .addShort _ _ imm | .adcShort _ _ imm | .subShort _ _ imm
  | .sbcShort _ _ imm => imm != signedMarker
  | .rorShort _ _ imm | .rolShort _ _ imm | .rrcShort _ _ imm | .rlcShort _ _ imm | .lsrShort _ _ imm
  | .lslShort _ _ imm | .asrShort _ _ imm => imm != unsignedMarker
  | .ldiReserved _ _ src | .flgReserved _ _ src | .jReserved _ _ src | .callReserved _ _ src => src != signedMarker
  | .ldReg _ _ _ | .ldLong _ _ | .ldiReg _ _ _ | .ldiLong _ _ | .stiByte _ _ _ | .stiWord _ _ _
  | .negReg _ _ _ | .negLong _ _ | .sexReg _ _ _ | .sexLong _ _ | .offsReg _ _ _ | .offsLong _ _
  | .cmpReg _ _ _ | .cmpLong _ _ | .xcg _ _ _ | .xcgReserved _ _ _ | .clzReg _ _ _ | .clzLong _ _
  | .ctzReg _ _ _ | .ctzLong _ _ | .cbsReg _ _ _ | .cbsLong _ _ | .flgReg _ _ _ | .flgLong _ _ | .push _ _
  | .pushReserved _ _ _ | .pop _ _ | .popReserved _ _ _ | .jReg _ _ | .jLong _ | .callReg _ _ | .callLong _
  | .andReg _ _ _ | .andLong _ _ | .orReg _ _ _ | .orLong _ _ | .xorReg _ _ _ | .xorLong _ _ | .notReg _ _ _
  | .notLong _ _ | .addReg _ _ _ | .addLong _ _ | .adcReg _ _ _ | .adcLong _ _ | .subReg _ _ _ | .subLong _ _
  | .sbcReg _ _ _ | .sbcLong _ _ | .rorReg _ _ _ | .rorLong _ _ | .rolReg _ _ _ | .rolLong _ _
  | .rrcReg _ _ _ | .rrcLong _ _ | .rlcReg _ _ _ | .rlcLong _ _ | .lsrReg _ _ _ | .lsrLong _ _
  | .lslReg _ _ _ | .lslLong _ _ | .asrReg _ _ _ | .asrLong _ _ | .ret _ | .retReserved _ _ _ => true

end Sys2Proof
end

