-- ==== Sys2Proof/Decode.lean ====
section
/-! DEFINITION. Decoding and encoding (spec/30_encoding.md R80 to R98, spec/20_memory.md R51, R52). Every one of the
65,536 instruction words decodes to exactly one constructor; the reserved forms (R96) decode to their own. -/

namespace Sys2Proof

/-! ### Codes of the fields -/

/-- The register a three-bit field selects (R22, decision D11, log 22). -/
def Reg.ofCode (n : BitVec 3) : Reg :=
  match n.getLsbD 2, n.getLsbD 1, n.getLsbD 0 with
  | false, false, false => .r0
  | false, false, true  => .r1
  | false, true,  false => .r2
  | false, true,  true  => .r3
  | true,  false, false => .r4
  | true,  false, true  => .r5
  | true,  true,  false => .r6
  | true,  true,  true  => .sp

/-- The number of a register in a three-bit field (R22). -/
def Reg.code (r : Reg) : BitVec 3 :=
  match r with
  | .r0 => 0 | .r1 => 1 | .r2 => 2 | .r3 => 3 | .r4 => 4 | .r5 => 5 | .r6 => 6 | .sp => 7

/-- The condition of a four-bit code (R84). -/
def Cond.ofCode (n : BitVec 4) : Cond :=
  match n.getLsbD 3, n.getLsbD 2, n.getLsbD 1, n.getLsbD 0 with
  | false, false, false, false => .always
  | false, false, false, true  => .c
  | false, false, true,  false => .n
  | false, false, true,  true  => .v
  | false, true,  false, false => .z
  | false, true,  false, true  => .ls
  | false, true,  true,  false => .lt
  | false, true,  true,  true  => .le
  | true,  false, false, false => .never
  | true,  false, false, true  => .cc
  | true,  false, true,  false => .p
  | true,  false, true,  true  => .nv
  | true,  true,  false, false => .nz
  | true,  true,  false, true  => .hi
  | true,  true,  true,  false => .ge
  | true,  true,  true,  true  => .gt

/-- The four-bit code of a condition (R84). -/
def Cond.code (cond : Cond) : BitVec 4 :=
  match cond with
  | .always => 0 | .c => 1 | .n => 2 | .v => 3 | .z => 4 | .ls => 5 | .lt => 6 | .le => 7
  | .never => 8 | .cc => 9 | .p => 10 | .nv => 11 | .nz => 12 | .hi => 13 | .ge => 14 | .gt => 15

/-- The opcode of a five-bit code (R83). -/
def Opcode.ofCode (n : BitVec 5) : Opcode :=
  match n.getLsbD 4, n.getLsbD 3, n.getLsbD 2, n.getLsbD 1, n.getLsbD 0 with
  | false, false, false, false, false => .ld
  | false, false, false, false, true => .ldi
  | false, false, false, true, false => .sti
  | false, false, false, true, true => .neg
  | false, false, true, false, false => .sex
  | false, false, true, false, true => .offs
  | false, false, true, true, false => .cmp
  | false, false, true, true, true => .xcg
  | false, true, false, false, false => .clz
  | false, true, false, false, true => .ctz
  | false, true, false, true, false => .cbs
  | false, true, false, true, true => .flg
  | false, true, true, false, false => .push
  | false, true, true, false, true => .pop
  | false, true, true, true, false => .j
  | false, true, true, true, true => .call
  | true, false, false, false, false => .andOp
  | true, false, false, false, true => .orOp
  | true, false, false, true, false => .xor
  | true, false, false, true, true => .notOp
  | true, false, true, false, false => .add
  | true, false, true, false, true => .adc
  | true, false, true, true, false => .sub
  | true, false, true, true, true => .sbc
  | true, true, false, false, false => .ror
  | true, true, false, false, true => .rol
  | true, true, false, true, false => .rrc
  | true, true, false, true, true => .rlc
  | true, true, true, false, false => .lsr
  | true, true, true, false, true => .lsl
  | true, true, true, true, false => .asr
  | true, true, true, true, true => .ret

/-- The five-bit code of an opcode (R83). -/
def Opcode.code (o : Opcode) : BitVec 5 :=
  match o with
  | .ld => 0x00 | .ldi => 0x01 | .sti => 0x02 | .neg => 0x03 | .sex => 0x04 | .offs => 0x05 | .cmp => 0x06 | .xcg => 0x07
  | .clz => 0x08 | .ctz => 0x09 | .cbs => 0x0A | .flg => 0x0B | .push => 0x0C | .pop => 0x0D | .j => 0x0E | .call => 0x0F
  | .andOp => 0x10 | .orOp => 0x11 | .xor => 0x12 | .notOp => 0x13 | .add => 0x14 | .adc => 0x15 | .sub => 0x16 | .sbc => 0x17
  | .ror => 0x18 | .rol => 0x19 | .rrc => 0x1A | .rlc => 0x1B | .lsr => 0x1C | .lsl => 0x1D | .asr => 0x1E | .ret => 0x1F

/-- The seven opcodes whose embedded source field is unsigned, 0x18 to 0x1E (R87, R90). -/
def Opcode.isShift (o : Opcode) : Bool :=
  match o with
  | .ror | .rol | .rrc | .rlc | .lsr | .lsl | .asr => true
  | .ld | .ldi | .sti | .neg | .sex | .offs | .cmp | .xcg | .clz | .ctz | .cbs | .flg | .push | .pop | .j | .call
  | .andOp | .orOp | .xor | .notOp | .add | .adc | .sub | .sbc | .ret => false

/-- Whether the opcode has a long-immediate form (R93). -/
def Opcode.hasLong (o : Opcode) : Bool :=
  match o with
  | .sti | .xcg | .push | .pop | .ret => false
  | .ld | .ldi | .neg | .sex | .offs | .cmp | .clz | .ctz | .cbs | .flg | .j | .call
  | .andOp | .orOp | .xor | .notOp | .add | .adc | .sub | .sbc
  | .ror | .rol | .rrc | .rlc | .lsr | .lsl | .asr => true

/-! ### The one format (R81) -/

def opcodeField (w : Word) : BitVec 5 := w.extractLsb' 11 5
def condField (w : Word) : BitVec 4 := w.extractLsb' 7 4
def modeBit (w : Word) : Bool := w.getLsbD 6
def rdField (w : Word) : BitVec 3 := w.extractLsb' 3 3
def sourceField (w : Word) : BitVec 3 := w.extractLsb' 0 3

/-- The opcode of an instruction word. -/
def opcodeOf (w : Word) : Opcode := Opcode.ofCode (opcodeField w)

/-- The source field that selects the long immediate for this opcode (R87, R91). -/
def longMarker (o : Opcode) : BitVec 3 := if o.isShift then unsignedMarker else signedMarker

/-- The mode select of an instruction word when no interrupt request is pending (R87). -/
def modeSelect (w : Word) : Mode :=
  if modeBit w then
    if sourceField w = longMarker (opcodeOf w) then .longImmediate else .shortImmediate
  else .register

/-- R98: an instruction is four bytes long exactly when its mode bit is set, its opcode has a long form and its source
field is the long marker. -/
def isLongWord (w : Word) : Bool :=
  modeBit w && (opcodeOf w).hasLong && sourceField w == longMarker (opcodeOf w)

/-- The instruction word of two bytes in memory order: the opcode byte comes first, in bits 15 to 8 (R51, R80). -/
def wordOfBytes (first second : Byte) : Word := first ++ second

/-- A 16-bit immediate of two bytes in memory order: the low byte comes first (R52, R80). -/
def immOfBytes (lo hi : Byte) : Word := hi ++ lo

/-- The upper and lower byte of a word. -/
def highByte (w : Word) : Byte := w.extractLsb' 8 8
def lowByte (w : Word) : Byte := w.extractLsb' 0 8

/-! ### Decoding -/

/-- The forms of an opcode with register, signed short and long source (R88, R89, R91). -/
def decodeSigned (reg : Cond → Reg → Reg → Instr) (short : Cond → Reg → BitVec 3 → Instr)
    (long : Cond → Reg → Instr) (w : Word) : Instr :=
  let cond := Cond.ofCode (condField w)
  let rd := Reg.ofCode (rdField w)
  if modeBit w then
    if sourceField w = signedMarker then long cond rd else short cond rd (sourceField w)
  else reg cond rd (Reg.ofCode (sourceField w))

/-- The forms of a shift or rotate: unsigned short source, long marker 000 (R90, R91). -/
def decodeUnsigned (reg : Cond → Reg → Reg → Instr) (short : Cond → Reg → BitVec 3 → Instr)
    (long : Cond → Reg → Instr) (w : Word) : Instr :=
  let cond := Cond.ofCode (condField w)
  let rd := Reg.ofCode (rdField w)
  if modeBit w then
    if sourceField w = unsignedMarker then long cond rd else short cond rd (sourceField w)
  else reg cond rd (Reg.ofCode (sourceField w))

/-- The forms of LDI and FLG: register and long source, the rest reserved (R93, R96). -/
def decodeNoShort (reg : Cond → Reg → Reg → Instr) (long : Cond → Reg → Instr)
    (reserved : Cond → Reg → BitVec 3 → Instr) (w : Word) : Instr :=
  let cond := Cond.ofCode (condField w)
  let rd := Reg.ofCode (rdField w)
  if modeBit w then
    if sourceField w = signedMarker then long cond rd else reserved cond rd (sourceField w)
  else reg cond rd (Reg.ofCode (sourceField w))

/-- The forms of J and CALL: as LDI, the destination field is a don't-care (R93, R95, decision D12, log 17). -/
def decodeAddress (reg : Cond → Reg → Instr) (long : Cond → Instr)
    (reserved : Cond → Reg → BitVec 3 → Instr) (w : Word) : Instr :=
  let cond := Cond.ofCode (condField w)
  if modeBit w then
    if sourceField w = signedMarker then long cond else reserved cond (Reg.ofCode (rdField w)) (sourceField w)
  else reg cond (Reg.ofCode (sourceField w))

/-- The forms of XCG, PUSH, POP and RET: mode bit clear, the rest reserved (R93, R96). -/
def decodeRegisterOnly (form : Cond → Instr) (reserved : Cond → Reg → BitVec 3 → Instr) (w : Word) : Instr :=
  let cond := Cond.ofCode (condField w)
  if modeBit w then reserved cond (Reg.ofCode (rdField w)) (sourceField w) else form cond

/-- The instruction of an instruction word (R81 to R96). Total: no word is refused here. -/
def decodeWord (w : Word) : Instr :=
  match opcodeOf w with
  | .ld => decodeSigned .ldReg .ldShort .ldLong w
  | .ldi => decodeNoShort .ldiReg .ldiLong .ldiReserved w
  | .sti =>
    if modeBit w then .stiWord (Cond.ofCode (condField w)) (Reg.ofCode (rdField w)) (Reg.ofCode (sourceField w))
    else .stiByte (Cond.ofCode (condField w)) (Reg.ofCode (rdField w)) (Reg.ofCode (sourceField w))
  | .neg => decodeSigned .negReg .negShort .negLong w
  | .sex => decodeSigned .sexReg .sexShort .sexLong w
  | .offs => decodeSigned .offsReg .offsShort .offsLong w
  | .cmp => decodeSigned .cmpReg .cmpShort .cmpLong w
  | .xcg =>
    decodeRegisterOnly (fun cond => .xcg cond (Reg.ofCode (rdField w)) (Reg.ofCode (sourceField w))) .xcgReserved w
  | .clz => decodeSigned .clzReg .clzShort .clzLong w
  | .ctz => decodeSigned .ctzReg .ctzShort .ctzLong w
  | .cbs => decodeSigned .cbsReg .cbsShort .cbsLong w
  | .flg => decodeNoShort .flgReg .flgLong .flgReserved w
  | .push => decodeRegisterOnly (fun cond => .push cond (Reg.ofCode (sourceField w))) .pushReserved w
  | .pop => decodeRegisterOnly (fun cond => .pop cond (Reg.ofCode (rdField w))) .popReserved w
  | .j => decodeAddress .jReg .jLong .jReserved w
  | .call => decodeAddress .callReg .callLong .callReserved w
  | .andOp => decodeSigned .andReg .andShort .andLong w
  | .orOp => decodeSigned .orReg .orShort .orLong w
  | .xor => decodeSigned .xorReg .xorShort .xorLong w
  | .notOp => decodeSigned .notReg .notShort .notLong w
  | .add => decodeSigned .addReg .addShort .addLong w
  | .adc => decodeSigned .adcReg .adcShort .adcLong w
  | .sub => decodeSigned .subReg .subShort .subLong w
  | .sbc => decodeSigned .sbcReg .sbcShort .sbcLong w
  | .ror => decodeUnsigned .rorReg .rorShort .rorLong w
  | .rol => decodeUnsigned .rolReg .rolShort .rolLong w
  | .rrc => decodeUnsigned .rrcReg .rrcShort .rrcLong w
  | .rlc => decodeUnsigned .rlcReg .rlcShort .rlcLong w
  | .lsr => decodeUnsigned .lsrReg .lsrShort .lsrLong w
  | .lsl => decodeUnsigned .lslReg .lslShort .lslLong w
  | .asr => decodeUnsigned .asrReg .asrShort .asrLong w
  | .ret => decodeRegisterOnly (fun cond => .ret cond) .retReserved w

/-! ### Encoding -/

/-- The five fields of the one format. -/
structure Fields where
  opcode : Opcode
  cond   : Cond
  m      : Bool
  rd     : BitVec 3
  source : BitVec 3
deriving DecidableEq, Repr

/-- What the encoding figure of each row puts in the five fields (R81, R93); a don't-care field is written as 000
(R95). -/
def Instr.fields (i : Instr) : Fields :=
  match i with
  | .ldReg cond rd rs => ⟨.ld, cond, false, rd.code, rs.code⟩
  | .ldShort cond rd imm => ⟨.ld, cond, true, rd.code, imm⟩
  | .ldLong cond rd => ⟨.ld, cond, true, rd.code, signedMarker⟩
  | .ldiReg cond rd rs => ⟨.ldi, cond, false, rd.code, rs.code⟩
  | .ldiLong cond rd => ⟨.ldi, cond, true, rd.code, signedMarker⟩
  | .ldiReserved cond rd src => ⟨.ldi, cond, true, rd.code, src⟩
  | .stiByte cond rd rs => ⟨.sti, cond, false, rd.code, rs.code⟩
  | .stiWord cond rd rs => ⟨.sti, cond, true, rd.code, rs.code⟩
  | .negReg cond rd rs => ⟨.neg, cond, false, rd.code, rs.code⟩
  | .negShort cond rd imm => ⟨.neg, cond, true, rd.code, imm⟩
  | .negLong cond rd => ⟨.neg, cond, true, rd.code, signedMarker⟩
  | .sexReg cond rd rs => ⟨.sex, cond, false, rd.code, rs.code⟩
  | .sexShort cond rd imm => ⟨.sex, cond, true, rd.code, imm⟩
  | .sexLong cond rd => ⟨.sex, cond, true, rd.code, signedMarker⟩
  | .offsReg cond rd rs => ⟨.offs, cond, false, rd.code, rs.code⟩
  | .offsShort cond rd imm => ⟨.offs, cond, true, rd.code, imm⟩
  | .offsLong cond rd => ⟨.offs, cond, true, rd.code, signedMarker⟩
  | .cmpReg cond rd rs => ⟨.cmp, cond, false, rd.code, rs.code⟩
  | .cmpShort cond rd imm => ⟨.cmp, cond, true, rd.code, imm⟩
  | .cmpLong cond rd => ⟨.cmp, cond, true, rd.code, signedMarker⟩
  | .xcg cond rd rs => ⟨.xcg, cond, false, rd.code, rs.code⟩
  | .xcgReserved cond rd src => ⟨.xcg, cond, true, rd.code, src⟩
  | .clzReg cond rd rs => ⟨.clz, cond, false, rd.code, rs.code⟩
  | .clzShort cond rd imm => ⟨.clz, cond, true, rd.code, imm⟩
  | .clzLong cond rd => ⟨.clz, cond, true, rd.code, signedMarker⟩
  | .ctzReg cond rd rs => ⟨.ctz, cond, false, rd.code, rs.code⟩
  | .ctzShort cond rd imm => ⟨.ctz, cond, true, rd.code, imm⟩
  | .ctzLong cond rd => ⟨.ctz, cond, true, rd.code, signedMarker⟩
  | .cbsReg cond rd rs => ⟨.cbs, cond, false, rd.code, rs.code⟩
  | .cbsShort cond rd imm => ⟨.cbs, cond, true, rd.code, imm⟩
  | .cbsLong cond rd => ⟨.cbs, cond, true, rd.code, signedMarker⟩
  | .flgReg cond rd rs => ⟨.flg, cond, false, rd.code, rs.code⟩
  | .flgLong cond rd => ⟨.flg, cond, true, rd.code, signedMarker⟩
  | .flgReserved cond rd src => ⟨.flg, cond, true, rd.code, src⟩
  | .push cond rs => ⟨.push, cond, false, 0, rs.code⟩
  | .pushReserved cond rd src => ⟨.push, cond, true, rd.code, src⟩
  | .pop cond rd => ⟨.pop, cond, false, rd.code, 0⟩
  | .popReserved cond rd src => ⟨.pop, cond, true, rd.code, src⟩
  | .jReg cond rs => ⟨.j, cond, false, 0, rs.code⟩
  | .jLong cond => ⟨.j, cond, true, 0, signedMarker⟩
  | .jReserved cond rd src => ⟨.j, cond, true, rd.code, src⟩
  | .callReg cond rs => ⟨.call, cond, false, 0, rs.code⟩
  | .callLong cond => ⟨.call, cond, true, 0, signedMarker⟩
  | .callReserved cond rd src => ⟨.call, cond, true, rd.code, src⟩
  | .andReg cond rd rs => ⟨.andOp, cond, false, rd.code, rs.code⟩
  | .andShort cond rd imm => ⟨.andOp, cond, true, rd.code, imm⟩
  | .andLong cond rd => ⟨.andOp, cond, true, rd.code, signedMarker⟩
  | .orReg cond rd rs => ⟨.orOp, cond, false, rd.code, rs.code⟩
  | .orShort cond rd imm => ⟨.orOp, cond, true, rd.code, imm⟩
  | .orLong cond rd => ⟨.orOp, cond, true, rd.code, signedMarker⟩
  | .xorReg cond rd rs => ⟨.xor, cond, false, rd.code, rs.code⟩
  | .xorShort cond rd imm => ⟨.xor, cond, true, rd.code, imm⟩
  | .xorLong cond rd => ⟨.xor, cond, true, rd.code, signedMarker⟩
  | .notReg cond rd rs => ⟨.notOp, cond, false, rd.code, rs.code⟩
  | .notShort cond rd imm => ⟨.notOp, cond, true, rd.code, imm⟩
  | .notLong cond rd => ⟨.notOp, cond, true, rd.code, signedMarker⟩
  | .addReg cond rd rs => ⟨.add, cond, false, rd.code, rs.code⟩
  | .addShort cond rd imm => ⟨.add, cond, true, rd.code, imm⟩
  | .addLong cond rd => ⟨.add, cond, true, rd.code, signedMarker⟩
  | .adcReg cond rd rs => ⟨.adc, cond, false, rd.code, rs.code⟩
  | .adcShort cond rd imm => ⟨.adc, cond, true, rd.code, imm⟩
  | .adcLong cond rd => ⟨.adc, cond, true, rd.code, signedMarker⟩
  | .subReg cond rd rs => ⟨.sub, cond, false, rd.code, rs.code⟩
  | .subShort cond rd imm => ⟨.sub, cond, true, rd.code, imm⟩
  | .subLong cond rd => ⟨.sub, cond, true, rd.code, signedMarker⟩
  | .sbcReg cond rd rs => ⟨.sbc, cond, false, rd.code, rs.code⟩
  | .sbcShort cond rd imm => ⟨.sbc, cond, true, rd.code, imm⟩
  | .sbcLong cond rd => ⟨.sbc, cond, true, rd.code, signedMarker⟩
  | .rorReg cond rd rs => ⟨.ror, cond, false, rd.code, rs.code⟩
  | .rorShort cond rd imm => ⟨.ror, cond, true, rd.code, imm⟩
  | .rorLong cond rd => ⟨.ror, cond, true, rd.code, unsignedMarker⟩
  | .rolReg cond rd rs => ⟨.rol, cond, false, rd.code, rs.code⟩
  | .rolShort cond rd imm => ⟨.rol, cond, true, rd.code, imm⟩
  | .rolLong cond rd => ⟨.rol, cond, true, rd.code, unsignedMarker⟩
  | .rrcReg cond rd rs => ⟨.rrc, cond, false, rd.code, rs.code⟩
  | .rrcShort cond rd imm => ⟨.rrc, cond, true, rd.code, imm⟩
  | .rrcLong cond rd => ⟨.rrc, cond, true, rd.code, unsignedMarker⟩
  | .rlcReg cond rd rs => ⟨.rlc, cond, false, rd.code, rs.code⟩
  | .rlcShort cond rd imm => ⟨.rlc, cond, true, rd.code, imm⟩
  | .rlcLong cond rd => ⟨.rlc, cond, true, rd.code, unsignedMarker⟩
  | .lsrReg cond rd rs => ⟨.lsr, cond, false, rd.code, rs.code⟩
  | .lsrShort cond rd imm => ⟨.lsr, cond, true, rd.code, imm⟩
  | .lsrLong cond rd => ⟨.lsr, cond, true, rd.code, unsignedMarker⟩
  | .lslReg cond rd rs => ⟨.lsl, cond, false, rd.code, rs.code⟩
  | .lslShort cond rd imm => ⟨.lsl, cond, true, rd.code, imm⟩
  | .lslLong cond rd => ⟨.lsl, cond, true, rd.code, unsignedMarker⟩
  | .asrReg cond rd rs => ⟨.asr, cond, false, rd.code, rs.code⟩
  | .asrShort cond rd imm => ⟨.asr, cond, true, rd.code, imm⟩
  | .asrLong cond rd => ⟨.asr, cond, true, rd.code, unsignedMarker⟩
  | .ret cond => ⟨.ret, cond, false, 0, 0⟩
  | .retReserved cond rd src => ⟨.ret, cond, true, rd.code, src⟩

/-- The condition of an instruction. -/
def Instr.cond (i : Instr) : Cond := i.fields.cond

/-- The five fields as one word, the opcode in bits 15 to 11 (R81). -/
def packFields (f : Fields) : Word :=
  f.opcode.code ++ f.cond.code ++ BitVec.ofBool f.m ++ f.rd ++ f.source

/-- The instruction word of an instruction. -/
def encodeWord (i : Instr) : Word := packFields i.fields

/-- Whether the form has a long immediate (R91, R93). -/
def Instr.isLong (i : Instr) : Bool :=
  match i with
  | .ldLong _ _ | .ldiLong _ _ | .negLong _ _ | .sexLong _ _ | .offsLong _ _ | .cmpLong _ _ | .clzLong _ _
  | .ctzLong _ _ | .cbsLong _ _ | .flgLong _ _ | .jLong _ | .callLong _ | .andLong _ _ | .orLong _ _
  | .xorLong _ _ | .notLong _ _ | .addLong _ _ | .adcLong _ _ | .subLong _ _ | .sbcLong _ _ | .rorLong _ _
  | .rolLong _ _ | .rrcLong _ _ | .rlcLong _ _ | .lsrLong _ _ | .lslLong _ _ | .asrLong _ _ => true
  | .ldReg _ _ _ | .ldShort _ _ _ | .ldiReg _ _ _ | .ldiReserved _ _ _ | .stiByte _ _ _ | .stiWord _ _ _
  | .negReg _ _ _ | .negShort _ _ _ | .sexReg _ _ _ | .sexShort _ _ _ | .offsReg _ _ _ | .offsShort _ _ _
  | .cmpReg _ _ _ | .cmpShort _ _ _ | .xcg _ _ _ | .xcgReserved _ _ _ | .clzReg _ _ _ | .clzShort _ _ _
  | .ctzReg _ _ _ | .ctzShort _ _ _ | .cbsReg _ _ _ | .cbsShort _ _ _ | .flgReg _ _ _ | .flgReserved _ _ _
  | .push _ _ | .pushReserved _ _ _ | .pop _ _ | .popReserved _ _ _ | .jReg _ _ | .jReserved _ _ _
  | .callReg _ _ | .callReserved _ _ _ | .andReg _ _ _ | .andShort _ _ _ | .orReg _ _ _ | .orShort _ _ _
  | .xorReg _ _ _ | .xorShort _ _ _ | .notReg _ _ _ | .notShort _ _ _ | .addReg _ _ _ | .addShort _ _ _
  | .adcReg _ _ _ | .adcShort _ _ _ | .subReg _ _ _ | .subShort _ _ _ | .sbcReg _ _ _ | .sbcShort _ _ _
  | .rorReg _ _ _ | .rorShort _ _ _ | .rolReg _ _ _ | .rolShort _ _ _ | .rrcReg _ _ _ | .rrcShort _ _ _
  | .rlcReg _ _ _ | .rlcShort _ _ _ | .lsrReg _ _ _ | .lsrShort _ _ _ | .lslReg _ _ _ | .lslShort _ _ _
  | .asrReg _ _ _ | .asrShort _ _ _ | .ret _ | .retReserved _ _ _ => false

/-- Whether the row is one of the reserved rows (R96). -/
def Instr.isReserved (i : Instr) : Bool :=
  match i with
  | .ldiReserved _ _ _ | .xcgReserved _ _ _ | .flgReserved _ _ _ | .pushReserved _ _ _ | .popReserved _ _ _
  | .jReserved _ _ _ | .callReserved _ _ _ | .retReserved _ _ _ => true
  | .ldReg _ _ _ | .ldShort _ _ _ | .ldLong _ _ | .ldiReg _ _ _ | .ldiLong _ _ | .stiByte _ _ _
  | .stiWord _ _ _ | .negReg _ _ _ | .negShort _ _ _ | .negLong _ _ | .sexReg _ _ _ | .sexShort _ _ _
  | .sexLong _ _ | .offsReg _ _ _ | .offsShort _ _ _ | .offsLong _ _ | .cmpReg _ _ _ | .cmpShort _ _ _
  | .cmpLong _ _ | .xcg _ _ _ | .clzReg _ _ _ | .clzShort _ _ _ | .clzLong _ _ | .ctzReg _ _ _
  | .ctzShort _ _ _ | .ctzLong _ _ | .cbsReg _ _ _ | .cbsShort _ _ _ | .cbsLong _ _ | .flgReg _ _ _
  | .flgLong _ _ | .push _ _ | .pop _ _ | .jReg _ _ | .jLong _ | .callReg _ _ | .callLong _ | .andReg _ _ _
  | .andShort _ _ _ | .andLong _ _ | .orReg _ _ _ | .orShort _ _ _ | .orLong _ _ | .xorReg _ _ _
  | .xorShort _ _ _ | .xorLong _ _ | .notReg _ _ _ | .notShort _ _ _ | .notLong _ _ | .addReg _ _ _
  | .addShort _ _ _ | .addLong _ _ | .adcReg _ _ _ | .adcShort _ _ _ | .adcLong _ _ | .subReg _ _ _
  | .subShort _ _ _ | .subLong _ _ | .sbcReg _ _ _ | .sbcShort _ _ _ | .sbcLong _ _ | .rorReg _ _ _
  | .rorShort _ _ _ | .rorLong _ _ | .rolReg _ _ _ | .rolShort _ _ _ | .rolLong _ _ | .rrcReg _ _ _
  | .rrcShort _ _ _ | .rrcLong _ _ | .rlcReg _ _ _ | .rlcShort _ _ _ | .rlcLong _ _ | .lsrReg _ _ _
  | .lsrShort _ _ _ | .lsrLong _ _ | .lslReg _ _ _ | .lslShort _ _ _ | .lslLong _ _ | .asrReg _ _ _
  | .asrShort _ _ _ | .asrLong _ _ | .ret _ => false

/-- The bytes of an instruction in memory order; `imm` is the long immediate, used by the long forms only
(R51, R52, R80). -/
def encode (i : Instr) (imm : Word) : List Byte :=
  let w := encodeWord i
  if i.isLong then [highByte w, lowByte w, lowByte imm, highByte imm] else [highByte w, lowByte w]

/-! ### Decoding bytes -/

/-- Why a list of bytes holds no whole instruction. -/
inductive DecodeRefusal where
  | missingInstructionWord   -- fewer than two bytes
  | missingImmediate         -- a long form without its two immediate bytes
deriving DecidableEq, Repr

/-- One instruction read from bytes: the instruction, its long immediate if the form has one, the bytes after it. -/
structure Decoded where
  instr : Instr
  imm   : Option Word
  rest  : List Byte
deriving DecidableEq, Repr

/-- The instruction at the head of a list of bytes. The length of a reserved form is not defined (R96): it is given
with no immediate. -/
def decode (bytes : List Byte) : Except DecodeRefusal Decoded :=
  match bytes with
  | first :: second :: rest =>
    let i := decodeWord (wordOfBytes first second)
    if i.isLong then
      match rest with
      | lo :: hi :: rest' => .ok ⟨i, some (immOfBytes lo hi), rest'⟩
      | _ => .error .missingImmediate
    else .ok ⟨i, none, rest⟩
  | _ => .error .missingInstructionWord

/-- The four bytes in memory of an instruction whose bits are `w` as spec/opcode_table.json numbers them: the
instruction word in bits 15 to 0, the long immediate in bits 31 to 16, every bit from `nbits` up zero. -/
def layOut (nbits w : Nat) : List Byte :=
  let v := w % 2 ^ nbits
  let word := BitVec.ofNat 16 v
  let imm := BitVec.ofNat 16 (v / 2 ^ 16)
  [highByte word, lowByte word, lowByte imm, highByte imm]

/-- The instruction the decoder reads from an instruction whose bits are `w` as spec/opcode_table.json numbers them. -/
def decodeTableWord (nbits w : Nat) : Option Instr :=
  match decode (layOut nbits w) with
  | .ok d => some d.instr
  | .error _ => none

end Sys2Proof
end

