-- ==== Sys2Proof/Machine/State.lean ====
section
/-! DEFINITION. The state of the machine as plain data: everything spec/10_state.md gives a DLUCS core, the platform's
parameters (R7, R40), and the counter of free values. Also the reasons a step can stop, and the state after reset. -/

namespace Sys2Proof.Machine

/-- The eight general registers (R21). -/
structure RegFile where
  r0 : Word
  r1 : Word
  r2 : Word
  r3 : Word
  r4 : Word
  r5 : Word
  r6 : Word
  sp : Word
deriving DecidableEq, Repr

/-- The flags register (R29), ordered C, N, V, Z from bit 3 to bit 0. -/
structure Flags where
  c : Bool
  n : Bool
  v : Bool
  z : Bool
deriving DecidableEq, Repr

/-- The hidden state of the microprogrammer's model (R36): the ALU input registers A and B, the latched instruction
word I, the three-bit state counter and the mode select. No instruction can name them (R36, R39). At an instruction
boundary they hold what the standard microcode of the last step left (log 15). -/
structure Hidden where
  a       : Word
  b       : Word
  i       : Word
  counter : BitVec 3
  mode    : Mode
deriving DecidableEq, Repr

/-- Memory as a list of (address, byte) pairs, addresses strictly rising; an address that is not listed holds no value
(R58, log 5). -/
abbrev Memory := List Host.Cell

/-- The whole state. -/
structure State where
  /-- R0 to R6 and SP (R21) -/
  regs : RegFile
  /-- the program counter (R26) -/
  pc : Word
  /-- the flags register (R29) -/
  flags : Flags
  /-- the pending interrupt request (R37) -/
  pending : Bool
  /-- the hidden registers (R36) -/
  hid : Hidden
  /-- memory (R35) -/
  mem : Memory
  /-- the parameters of the platform (R7, R40), which no step changes (log 33) -/
  platform : Platform
  /-- the model's own: how many free values have been drawn (log 14) -/
  freeCtr : Nat
deriving DecidableEq, Repr

/-- Where the machine stops at a memory access. The hardware has no such fault (R280): these are the model outcomes
`Refuse(BadAccess)` and `Refuse(Uninitialised)` of R12 and R58, in the host's word for a machine that stops (log 6). -/
inductive Fault where
  /-- A read of an absent address, or a write to a ROM or absent address (R58); raised by every memory access, the
  fetch included. Safe: the model stops where the spec gives no meaning. -/
  | badAccess (addr : Word)
  /-- A read of a RAM or ROM byte that neither the environment nor the program has written (R58); raised by every
  memory read, the fetch included. Safe: the model stops where the spec gives no meaning (log 5). -/
  | uninitialised (addr : Word)
deriving DecidableEq, Repr

/-- Why an instruction has no meaning. -/
inductive Refusal where
  /-- An instruction the model gives no meaning; raised by `exec` alone, for no instruction of this model. Safe. -/
  | notModelled (mnemonic : String)
  /-- `Refuse(ReservedForm)` (R96): the word is one of the reserved forms; raised by their meanings. Safe: the spec
  gives them no effect and no length (log 16). -/
  | reservedForm
  /-- `Refuse(UndefinedMicroOp)` (R12, R221): a control-store row or control word the standard microcode does not
  hold; raised by the micro-level machine alone. Safe (log 27). -/
  | undefinedMicroOp
deriving DecidableEq, Repr

/-- The machine right after reset (R38, R310, R311): pc 0, state counter 0, no request pending, nothing in memory yet.
DESIGN CHOICE, unsafe: the registers, the flags and the hidden registers are indeterminate in the spec (R38, which
forbids a default) and hold zero here (logs 1, 2, 3); the map is RAM everywhere (log 7). -/
def State.reset : State :=
  { regs := { r0 := 0, r1 := 0, r2 := 0, r3 := 0, r4 := 0, r5 := 0, r6 := 0, sp := 0 }
    pc := 0
    flags := { c := false, n := false, v := false, z := false }
    pending := false
    hid := { a := 0, b := 0, i := 0, counter := 0, mode := .register }
    mem := []
    platform := Platform.standard
    freeCtr := 0 }

end Sys2Proof.Machine
end

