-- ==== Sys2Proof/Machine/Ops.lean ====
section
/-! DEFINITION. The operations every meaning is built from: sequencing, registers, memory, the stack, the instruction
fetch, passing over, interrupt entry and return, and the events of the environment. -/

namespace Sys2Proof.Machine

/-- The outcome of a part of a step. -/
abbrev Result (α : Type) := Host.Outcome α Fault Refusal

/-- Go on with the value of `r`; a stop stays a stop. -/
def andThen {α β : Type} (r : Result α) (k : α → Result β) : Result β :=
  match r with
  | .next x => k x
  | .fault f => .fault f
  | .refused f => .refused f

/-! ### Registers (R10, R21) -/

/-- `R[r]`. No register is hard-wired, banked or shadowed (R21). -/
def RegFile.get (f : RegFile) (r : Reg) : Word :=
  match r with
  | .r0 => f.r0 | .r1 => f.r1 | .r2 => f.r2 | .r3 => f.r3
  | .r4 => f.r4 | .r5 => f.r5 | .r6 => f.r6 | .sp => f.sp

/-- `R[r] <- v`. -/
def RegFile.set (f : RegFile) (r : Reg) (v : Word) : RegFile :=
  match r with
  | .r0 => { f with r0 := v } | .r1 => { f with r1 := v } | .r2 => { f with r2 := v } | .r3 => { f with r3 := v }
  | .r4 => { f with r4 := v } | .r5 => { f with r5 := v } | .r6 => { f with r6 := v } | .sp => { f with sp := v }

def readReg (r : Reg) (s : State) : Word := s.regs.get r
def writeReg (r : Reg) (v : Word) (s : State) : State := { s with regs := s.regs.set r v }
def setPc (v : Word) (s : State) : State := { s with pc := v }
def setFlags (f : Flags) (s : State) : State := { s with flags := f }

/-- The hidden registers A and B (R36). -/
def setA (v : Word) (s : State) : State := { s with hid := { s.hid with a := v } }
def setB (v : Word) (s : State) : State := { s with hid := { s.hid with b := v } }
def setAB (va vb : Word) (s : State) : State := setB vb (setA va s)

/-! ### Memory (R11, R50, R58) -/

/-- The canonical form from address `low` up: strictly rising addresses, all below 2^16 (R50). -/
def Memory.risingFrom (low : Nat) (m : Memory) : Bool :=
  match m with
  | [] => true
  | (a, _) :: rest => decide (low ≤ a) && decide (a < 0x10000) && Memory.risingFrom (a + 1) rest

/-- The canonical form of memory. -/
def Memory.wf (m : Memory) : Bool := Memory.risingFrom 0 m

/-- The byte a memory list holds at an address, if it holds one. -/
def Memory.lookup (m : Memory) (a : Nat) : Option Byte :=
  match m with
  | [] => none
  | (k, v) :: rest => if k = a then some v else Memory.lookup rest a

/-- Put a byte at an address, keeping the canonical form. -/
def Memory.insert (m : Memory) (a : Nat) (v : Byte) : Memory :=
  match m with
  | [] => [(a, v)]
  | (k, w) :: rest =>
    if a < k then (a, v) :: (k, w) :: rest
    else if a = k then (a, v) :: rest
    else (k, w) :: Memory.insert rest a v

/-- The kind of an address: that of the first region that contains it, absent where none does (R58, log 7). -/
def kindIn (map : List Region) (a : Nat) : MemKind :=
  match map with
  | [] => .absent
  | r :: rest => if r.first ≤ a ∧ a ≤ r.last then r.kind else kindIn rest a

/-- `MEM_MAP` at an address (R58). -/
def kindAt (s : State) (a : Word) : MemKind := kindIn s.platform.memMap a.toNat

/-- The byte the model holds at an address, whatever the address's kind. -/
def byteAt (s : State) (a : Word) : Option Byte := s.mem.lookup a.toNat

/-- `MemRead(a, 1)` (R11, R58). -/
def readByte (a : Word) (s : State) : Result Byte :=
  match kindAt s a with
  | .absent => .fault (.badAccess a)
  | .ram | .rom =>
    match byteAt s a with
    | some v => .next v
    | none => .fault (.uninitialised a)

/-- Put a byte into the memory list. -/
def storeByte (a : Word) (v : Byte) (s : State) : State := { s with mem := s.mem.insert a.toNat v }

/-- `MemWrite(a, 1, v)` (R11, R58). -/
def writeByte (a : Word) (v : Byte) (s : State) : Result State :=
  match kindAt s a with
  | .ram => .next (storeByte a v s)
  | .rom | .absent => .fault (.badAccess a)

/-- `MemRead(a, 2)`: two byte reads, the low byte at the lower address first, `a + 1` modulo 2^16 (R11, R54, R61). -/
def readWord (a : Word) (s : State) : Result Word :=
  andThen (readByte a s) fun lo =>
  andThen (readByte (a + 1#16) s) fun hi =>
  .next (immOfBytes lo hi)

/-- The word store of STI: low byte first, then the high byte at `a + 1` (R55, R122). -/
def storeWord (a v : Word) (s : State) : Result State :=
  andThen (writeByte a (lowByte v) s) fun s1 =>
  writeByte (a + 1#16) (highByte v) s1

/-! ### Hidden images of a word moved as two bytes

The microcode moves a word over the 8-bit bus as its low byte, zero-extended, and its high byte swapped into bits 15
to 8 (R225, R227); the hidden registers are left holding these two. -/

def lowPart (w : Word) : Word := (lowByte w).setWidth 16
def highPart (w : Word) : Word := highByte w ++ (0 : Byte)

/-! ### The stack (R192) -/

/-- A push as PUSH, CALL and interrupt entry do it: the high byte to SP-1 first, then the low byte to SP-2, then SP
is SP-2 (R55, R190, R201, R285). The microcode leaves A = SP-2 and B = 0 (R245, R250, R266). -/
def pushWord (v : Word) (s : State) : Result State :=
  let sp := readReg .sp s
  andThen (writeByte (sp - 1#16) (highByte v) s) fun s1 =>
  andThen (writeByte (sp - 2#16) (lowByte v) s1) fun s2 =>
  .next (setAB (sp - 2#16) 0#16 (writeReg .sp (sp - 2#16) s2))

/-- The word on top of the stack: the low byte at SP first, then the high byte (R191, R203). -/
def topWord (s : State) : Result Word := readWord (readReg .sp s) s

/-- The advance of SP that ends POP and RET; SP is read here, after the popped word was written (R191, R203, C10). The
microcode leaves A = SP+1 and B = 1 (R265, R267). -/
def dropWord (s : State) : State :=
  let sp := readReg .sp s
  setAB (sp + 1#16) 1#16 (writeReg .sp (sp + 2#16) s)

/-! ### The instruction fetch (R100) -/

/-- What states 0 and 1 leave besides the two fetched bytes: pc moved over the instruction word, A = SP, the word in I,
the mode selected, and the counter at its boundary value (R222, R223, R224, logs 15, 24, 32). -/
def latch (w : Word) (s : State) : State :=
  { s with
    pc := s.pc + 2#16
    hid := { a := readReg .sp s, b := s.hid.b, i := w, counter := 0, mode := modeSelect w } }

/-- The two fetch reads, lower address first, and the decoded instruction (R80, R100). The long immediate is not read
here (R55, R100, log 13). -/
def fetch (s : State) : Result (Instr × State) :=
  andThen (readByte s.pc s) fun first =>
  andThen (readByte (s.pc + 1#16) s) fun second =>
  .next (decodeWord (wordOfBytes first second), latch (wordOfBytes first second) s)

/-! ### Passing over (R85)

A meaning starts in the state `latch` leaves: pc is `I0 + 2`. -/

/-- Where pc goes over a long form whose condition fails: `I0 + COND_FALSE_LONG_ADVANCE` (R85, decision D1, log 8). -/
def passedLong (s : State) : Word :=
  match s.platform.falseLongAdvance with
  | .four => s.pc + 2#16
  | .two => s.pc

/-- How many bytes follow the instruction word. -/
inductive Form where
  | twoByte
  | long
deriving DecidableEq, Repr

/-- An instruction whose condition fails: pc moves over it and nothing else a program can see changes (R85). What
the sequencer leaves in A and B is not described (R278): two free values (log 14). -/
def passOver (f : Form) (s : State) : State :=
  let s1 := setAB (Config.freeWord s.freeCtr) (Config.freeWord (s.freeCtr + 1)) { s with freeCtr := s.freeCtr + 2 }
  match f with
  | .twoByte => s1
  | .long => setPc (passedLong s1) s1

/-! ### The interrupt (R281 to R288) -/

/-- The address of the interrupt handler (R57, R287). -/
def interruptEntryAddress : Word := 0x0008#16

/-- Interrupt entry, one whole step (R285): push pc, jump to address 8, clear the request. The flags and R0 to R6 are
untouched (R286). The microcode leaves A = B = 2 and mode 3, and does not touch I (R245). -/
def interruptEntry (s : State) : Result State :=
  andThen (pushWord s.pc s) fun s1 =>
  .next (setAB 2#16 2#16
    { s1 with
      pc := interruptEntryAddress
      pending := false
      hid := { s1.hid with counter := 0, mode := .interrupt } })

/-- Return, the popped word to pc: RET, from a subroutine and from the interrupt handler alike (R203, R288). -/
def returnFrom (s : State) : Result State :=
  andThen (topWord s) fun target =>
  .next (dropWord (setPc target s))

/-! ### The environment (R16; logs 10, 11, 12) -/

/-- The environment raises the interrupt request; raising it again changes nothing (R282, decision D7). -/
def raiseIrq (s : State) : State := { s with pending := true }

/-- The environment asserts reset, between two steps (R310, R323): the state after reset, with memory and the platform
as they were (R68). -/
def assertReset (s : State) : State :=
  { State.reset with mem := s.mem, platform := s.platform, freeCtr := s.freeCtr }

/-- What the environment can do at a step boundary (R16). -/
inductive EnvEvent where
  | irq
  | reset
deriving DecidableEq, Repr

def environment (e : EnvEvent) (s : State) : State :=
  match e with
  | .irq => raiseIrq s
  | .reset => assertReset s

/-- The environment supplies consecutive bytes of memory, of whatever kind their addresses are, from address `a` up,
modulo 2^16 (R16, R58, R312, log 12). -/
def placeBytes (a : Word) (bytes : List Byte) (s : State) : State :=
  match bytes with
  | [] => s
  | b :: rest => placeBytes (a + 1#16) rest (storeByte a b s)

/-- The state after reset with a platform and a memory image supplied by the environment (R16, R310, R312). -/
def launch (p : Platform) (image : List (Word × List Byte)) : State :=
  image.foldl (fun s block => placeBytes block.1 block.2 s) { State.reset with platform := p }

end Sys2Proof.Machine
end

