-- ==== Sys2Proof/Machine/Flags.lean ====
section
/-! DEFINITION. Conditions and every computation of a result with its flags: the adder (R138 to R141), the logic unit
(R164, R236, R238), the shifts and rotates (R178 to R180), and the counts (R150 to R152). -/

namespace Sys2Proof.Machine

/-! ### The flags register as a number (R29) -/

/-- `C : N : V : Z`, C in bit 3 (R29). -/
def Flags.toNibble (f : Flags) : BitVec 4 :=
  BitVec.ofBool f.c ++ BitVec.ofBool f.n ++ BitVec.ofBool f.v ++ BitVec.ofBool f.z

/-- All four flags from a four-bit value (R10, R29). -/
def Flags.ofNibble (x : BitVec 4) : Flags :=
  { c := x.getLsbD 3, n := x.getLsbD 2, v := x.getLsbD 1, z := x.getLsbD 0 }

/-- The flags as a small bus source: bits 3 to 0, the rest zero (R211, R225). -/
def Flags.toWord (f : Flags) : Word := f.toNibble.setWidth 16

/-! ### Conditions (R84) -/

/-- The test a condition applies to the flags. Code 1xxx is the negation of code 0xxx. -/
def condHolds (cond : Cond) (f : Flags) : Bool :=
  match cond with
  | .always => true
  | .c      => f.c
  | .n      => f.n
  | .v      => f.v
  | .z      => f.z
  | .ls     => !f.c || f.z
  | .lt     => f.n ^^ f.v
  | .le     => (f.n ^^ f.v) || f.z
  | .never  => false
  | .cc     => !f.c
  | .p      => !f.n
  | .nv     => !f.v
  | .nz     => !f.z
  | .hi     => f.c && !f.z
  | .ge     => !(f.n ^^ f.v)
  | .gt     => !(f.n ^^ f.v) && !f.z

/-! ### A result with the flags it writes -/

structure AluOut where
  value : Word
  flags : Flags
deriving DecidableEq, Repr

/-- N from bit 15 and Z from the whole result (R30, R141). -/
def negative (r : Word) : Bool := r.msb
def isZero (r : Word) : Bool := r == 0

/-! ### The adder (R138 to R141) -/

/-- The 17-bit sum, which does not wrap (R138). -/
def sum17 (x y : Word) (cin : Bool) : Nat := x.toNat + y.toNat + cin.toNat

/-- The adder: result modulo 2^16, C the carry out (R139), V when the inputs have one sign and the result the other
(R140, decision D15, log 20). -/
def adder (x y : Word) (cin : Bool) : AluOut :=
  let s17 := sum17 x y cin
  let r := BitVec.ofNat 16 s17
  { value := r
    flags :=
      { c := decide (2 ^ 16 ≤ s17)
        n := negative r
        v := (x.msb == y.msb) && (r.msb != x.msb)
        z := isZero r } }

/-- Addition and subtraction as the adder does them (R138): the subtrahend complemented, the carry in forced. -/
def addAlu (x y : Word) (_ : Flags) : AluOut := adder x y false
def adcAlu (x y : Word) (f : Flags) : AluOut := adder x y f.c
def subAlu (x y : Word) (_ : Flags) : AluOut := adder x (~~~y) true
def sbcAlu (x y : Word) (f : Flags) : AluOut := adder x (~~~y) f.c

/-! ### Results that leave C and V alone (R164, R236, R238, R241 to R243) -/

/-- N and Z from the result, C and V kept. -/
def keepingCV (r : Word) (f : Flags) : AluOut :=
  { value := r, flags := { f with n := negative r, z := isZero r } }

def andAlu (x y : Word) (f : Flags) : AluOut := keepingCV (x &&& y) f
def orAlu (x y : Word) (f : Flags) : AluOut := keepingCV (x ||| y) f
def xorAlu (x y : Word) (f : Flags) : AluOut := keepingCV (x ^^^ y) f

/-- The complement of the source; the destination's old value does not enter (R163). -/
def notAlu (y : Word) (f : Flags) : AluOut := keepingCV (~~~y) f

/-! ### Shifts and rotates (R177 to R180, decision D13, log 19) -/

/-- N and Z from the result, V 0, C as given (R178 to R180, R239, R240). -/
def clearingV (r : Word) (c : Bool) : AluOut :=
  { value := r, flags := { c := c, n := negative r, v := false, z := isZero r } }

/-- The bits that `n` one-bit left shifts move out of `d`: its top `min n 16` bits (R178). -/
def outLeft (d : Word) (n : Nat) : Nat := d.toNat / 2 ^ (16 - min n 16)

/-- The bits that `n` one-bit right shifts move out of `d`: its low `min n 16` bits (R178). -/
def outRight (d : Word) (n : Nat) : Nat := d.toNat % 2 ^ min n 16

/-- LSL: `(d * 2^n) mod 2^16`, C if any set bit was shifted out (R178). -/
def lslAlu (d : Word) (count : Word) (_ : Flags) : AluOut :=
  clearingV (d <<< count.toNat) (decide (outLeft d count.toNat ≠ 0))

/-- LSR: `floor(d / 2^n)` (R178). -/
def lsrAlu (d : Word) (count : Word) (_ : Flags) : AluOut :=
  clearingV (d >>> count.toNat) (decide (outRight d count.toNat ≠ 0))

/-- ASR: `floor(signed(d) / 2^n) mod 2^16`, toward minus infinity (R178). -/
def asrAlu (d : Word) (count : Word) (_ : Flags) : AluOut :=
  clearingV (d.sshiftRight count.toNat) (decide (outRight d count.toNat ≠ 0))

/-- ROL by `count mod 16`; C is cleared (R179). -/
def rolAlu (d : Word) (count : Word) (_ : Flags) : AluOut :=
  let k := count.toNat % 16
  clearingV ((d <<< k) ||| (d >>> (16 - k))) false

/-- ROR by `count mod 16`; C is cleared (R179). -/
def rorAlu (d : Word) (count : Word) (_ : Flags) : AluOut :=
  let k := count.toNat % 16
  clearingV ((d >>> k) ||| (d <<< (16 - k))) false

/-- The 17-bit ring of the carry flag above the register (R180). -/
def ring (c : Bool) (d : Word) : BitVec 17 := BitVec.cons c d

/-- RLC: the ring rotated left by `count mod 17` (R180). -/
def rlcAlu (d : Word) (count : Word) (f : Flags) : AluOut :=
  let k := count.toNat % 17
  let x := ring f.c d
  let x' := (x <<< k) ||| (x >>> (17 - k))
  clearingV (x'.setWidth 16) x'.msb

/-- RRC: the ring rotated right by `count mod 17` (R180). -/
def rrcAlu (d : Word) (count : Word) (f : Flags) : AluOut :=
  let k := count.toNat % 17
  let x := ring f.c d
  let x' := (x >>> k) ||| (x <<< (17 - k))
  clearingV (x'.setWidth 16) x'.msb

/-! ### Counts (R150 to R152, R241) -/

/-- How many consecutive 0 bits stand from bit `k - 1` downward. -/
def zerosBelow (d : Word) (k : Nat) : Nat :=
  match k with
  | 0 => 0
  | j + 1 => if d.getLsbD j then 0 else zerosBelow d j + 1

/-- How many consecutive 0 bits stand from bit `16 - k` upward. -/
def zerosAbove (d : Word) (k : Nat) : Nat :=
  match k with
  | 0 => 0
  | j + 1 => if d.getLsbD (15 - j) then 0 else zerosAbove d j + 1

/-- How many of the bits `k - 1` to 0 are 1. -/
def onesBelow (d : Word) (k : Nat) : Nat :=
  match k with
  | 0 => 0
  | j + 1 => onesBelow d j + (d.getLsbD j).toNat

def leadingZeros (d : Word) : Nat := zerosBelow d 16
def trailingZeros (d : Word) : Nat := zerosAbove d 16
def onesCount (d : Word) : Nat := onesBelow d 16

/-- A count as a result: N is 0, Z from the result, C and V kept (R150 to R152, R241). -/
def countOut (n : Nat) (f : Flags) : AluOut :=
  let r := BitVec.ofNat 16 n
  { value := r, flags := { f with n := false, z := isZero r } }

/-! ### Sign extension of a byte (R131) -/

/-- SEX: the low byte sign-extended; C and V 0, N and Z from the result. -/
def sexAlu (y : Word) (_ : Flags) : AluOut := clearingV ((lowByte y).signExtend 16) false

/-! ### Bit operations of the ALU that no instruction exposes directly (R242, R243) -/

/-- Every bit up to the most significant set bit: `2^(floor(log2 a) + 1) - 1`, and 0 for 0 (R242, decision D20,
log 21). -/
def floodDown (a : Word) : Word :=
  if a = 0 then 0 else BitVec.ofNat 16 (2 ^ (Nat.log2 a.toNat + 1) - 1)

/-- Bit i of the result is bit 15 - i of the operand (R243). -/
def reverseBits (a : Word) : Word := a.reverse

end Sys2Proof.Machine
end

