-- ==== Sys2Proof/Machine/Operands.lean ====
section
/-! DEFINITION. The operand forms (R88 to R92) and conditional execution around a meaning (R85, R100). -/

namespace Sys2Proof.Machine

/-- The signed short immediate, -3 to +3 (R89). -/
def shortSigned (imm : BitVec 3) : Word := imm.signExtend 16

/-- The unsigned short immediate of the shifts and rotates, 1 to 7 (R90). -/
def shortUnsigned (imm : BitVec 3) : Word := imm.setWidth 16

/-- The doubled short immediate of OFFS, even, -6 to +6 (R92). -/
def shortDoubled (imm : BitVec 3) : Word := shortSigned imm + shortSigned imm

/-- The long immediate: the two bytes at pc, low byte first, pc moved over them (R55, R80, R91). The microcode leaves
the high byte's image in A and the low byte's in B. -/
def withLong (s : State) (body : Word → State → Result State) : Result State :=
  andThen (readWord s.pc s) fun imm =>
  body imm (setAB (highPart imm) (lowPart imm) (setPc (s.pc + 2#16) s))

/-- The long immediate of SEX and FLG: only the low byte is read, the upper byte is stepped over (R55, R91, R131,
R211). -/
def withLongLowByte (s : State) (body : Byte → State → Result State) : Result State :=
  andThen (readByte s.pc s) fun lo =>
  body lo (setPc (s.pc + 2#16) s)

/-- Conditional execution (R85, R100): `body` when the condition holds on the flags as the instruction begins,
otherwise the instruction is passed over. -/
def conditionally (cond : Cond) (f : Form) (s : State) (body : State → Result State) : Result State :=
  if condHolds cond s.flags then body s else .next (passOver f s)

/-! ### The common shapes of a meaning

Each names the hidden registers its listings leave (log 15). -/

/-- `R[rd] <- alu(R[rd], src)` with flags: the microcode puts R[rd] in A and the source in B (R246 to R248, R264,
R268 to R272, R275, R277). -/
def twoOperand (alu : Word → Word → Flags → AluOut) (rd : Reg) (src : Word) (s : State) : Result State :=
  let x := readReg rd s
  let out := alu x src s.flags
  .next (setAB x src (setFlags out.flags (writeReg rd out.value s)))

end Sys2Proof.Machine
end

