-- ==== Sys2Proof/Machine/Arithmetic.lean ====
section
/-! DEFINITION. Arithmetic: NEG, SEX, OFFS, CMP, ADD, ADC, SUB, SBC (spec/41_arithmetic.md). -/

namespace Sys2Proof.Machine

/-! ### NEG (R130, microcode R261) -/

/-- Zero minus the source, with the adder's flags; the microcode puts 0 in A and the source in B. -/
def negate (rd : Reg) (src : Word) (s : State) : Result State :=
  let out := subAlu 0 src s.flags
  .next (setAB 0 src (setFlags out.flags (writeReg rd out.value s)))

def execNegReg (cond : Cond) (rd rs : Reg) (s : State) : Result State :=
  conditionally cond .twoByte s fun s => negate rd (readReg rs s) s

def execNegShort (cond : Cond) (rd : Reg) (imm : BitVec 3) (s : State) : Result State :=
  conditionally cond .twoByte s fun s => negate rd (shortSigned imm) s

def execNegLong (cond : Cond) (rd : Reg) (s : State) : Result State :=
  conditionally cond .long s fun s => withLong s fun imm s => negate rd imm s

/-! ### SEX (R131, microcode R273)

The register and long forms shift left and back right by 8 (A and B are left holding the shifted source and 8); the
short form shifts by 0. -/

/-- The sign-extended low byte of the source to `rd`, with SEX's flags. -/
def signExtendByte (rd : Reg) (src : Word) (s : State) : State :=
  let out := sexAlu src s.flags
  setFlags out.flags (writeReg rd out.value s)

def execSexReg (cond : Cond) (rd rs : Reg) (s : State) : Result State :=
  conditionally cond .twoByte s fun s => .next (setAB (readReg rs s <<< 8) 8 (signExtendByte rd (readReg rs s) s))

def execSexShort (cond : Cond) (rd : Reg) (imm : BitVec 3) (s : State) : Result State :=
  conditionally cond .twoByte s fun s =>
    .next (setAB (shortSigned imm) 0 (signExtendByte rd (shortSigned imm) s))

/-- The long form reads only the low byte of its immediate (R55). -/
def execSexLong (cond : Cond) (rd : Reg) (s : State) : Result State :=
  conditionally cond .long s fun s => withLongLowByte s fun lo s =>
    .next (setAB (lo ++ (0 : Byte)) 8 (signExtendByte rd (lo.setWidth 16) s))

/-! ### OFFS (R132, microcode R263) -/

/-- The address of the next instruction plus the source; pc has been moved over the whole instruction here. No flag is
written. -/
def offset (rd : Reg) (src : Word) (s : State) : Result State :=
  .next (setAB src s.pc (writeReg rd (s.pc + src) s))

def execOffsReg (cond : Cond) (rd rs : Reg) (s : State) : Result State :=
  conditionally cond .twoByte s fun s => offset rd (readReg rs s) s

def execOffsShort (cond : Cond) (rd : Reg) (imm : BitVec 3) (s : State) : Result State :=
  conditionally cond .twoByte s fun s => offset rd (shortDoubled imm) s

def execOffsLong (cond : Cond) (rd : Reg) (s : State) : Result State :=
  conditionally cond .long s fun s => withLong s fun imm s => offset rd imm s

/-! ### CMP (R133, microcode R253) -/

/-- SUB without its result: only the flags are written. -/
def compare (rd : Reg) (src : Word) (s : State) : Result State :=
  let x := readReg rd s
  .next (setAB x src (setFlags (subAlu x src s.flags).flags s))

def execCmpReg (cond : Cond) (rd rs : Reg) (s : State) : Result State :=
  conditionally cond .twoByte s fun s => compare rd (readReg rs s) s

def execCmpShort (cond : Cond) (rd : Reg) (imm : BitVec 3) (s : State) : Result State :=
  conditionally cond .twoByte s fun s => compare rd (shortSigned imm) s

def execCmpLong (cond : Cond) (rd : Reg) (s : State) : Result State :=
  conditionally cond .long s fun s => withLong s fun imm s => compare rd imm s

/-! ### ADD (R134, microcode R247) -/

def execAddReg (cond : Cond) (rd rs : Reg) (s : State) : Result State :=
  conditionally cond .twoByte s fun s => twoOperand addAlu rd (readReg rs s) s

def execAddShort (cond : Cond) (rd : Reg) (imm : BitVec 3) (s : State) : Result State :=
  conditionally cond .twoByte s fun s => twoOperand addAlu rd (shortSigned imm) s

def execAddLong (cond : Cond) (rd : Reg) (s : State) : Result State :=
  conditionally cond .long s fun s => withLong s fun imm s => twoOperand addAlu rd imm s

/-! ### ADC (R135, microcode R246) -/

def execAdcReg (cond : Cond) (rd rs : Reg) (s : State) : Result State :=
  conditionally cond .twoByte s fun s => twoOperand adcAlu rd (readReg rs s) s

def execAdcShort (cond : Cond) (rd : Reg) (imm : BitVec 3) (s : State) : Result State :=
  conditionally cond .twoByte s fun s => twoOperand adcAlu rd (shortSigned imm) s

def execAdcLong (cond : Cond) (rd : Reg) (s : State) : Result State :=
  conditionally cond .long s fun s => withLong s fun imm s => twoOperand adcAlu rd imm s

/-! ### SUB (R136, microcode R275) -/

def execSubReg (cond : Cond) (rd rs : Reg) (s : State) : Result State :=
  conditionally cond .twoByte s fun s => twoOperand subAlu rd (readReg rs s) s

def execSubShort (cond : Cond) (rd : Reg) (imm : BitVec 3) (s : State) : Result State :=
  conditionally cond .twoByte s fun s => twoOperand subAlu rd (shortSigned imm) s

def execSubLong (cond : Cond) (rd : Reg) (s : State) : Result State :=
  conditionally cond .long s fun s => withLong s fun imm s => twoOperand subAlu rd imm s

/-! ### SBC (R137, microcode R272) -/

def execSbcReg (cond : Cond) (rd rs : Reg) (s : State) : Result State :=
  conditionally cond .twoByte s fun s => twoOperand sbcAlu rd (readReg rs s) s

def execSbcShort (cond : Cond) (rd : Reg) (imm : BitVec 3) (s : State) : Result State :=
  conditionally cond .twoByte s fun s => twoOperand sbcAlu rd (shortSigned imm) s

def execSbcLong (cond : Cond) (rd : Reg) (s : State) : Result State :=
  conditionally cond .long s fun s => withLong s fun imm s => twoOperand sbcAlu rd imm s

end Sys2Proof.Machine
end

