-- ==== Sys2Proof/Machine/BitTwiddling.lean ====
section
/-! DEFINITION. Bit twiddling: CLZ, CTZ, CBS (spec/42_bit_twiddling.md). N is 0, Z from the count, C and V unchanged. -/

namespace Sys2Proof.Machine

/-- A count to `rd`, with its flags; `image` is what the microcode counts the 1 bits of, left in A (R251, R252,
R254). -/
def putCount (n : Nat) (image : Word) (rd : Reg) (s : State) : Result State :=
  let out := countOut n s.flags
  .next (setA image (setFlags out.flags (writeReg rd out.value s)))

/-! ### CLZ (R150, microcode R252) -/

def countLeading (rd : Reg) (src : Word) (s : State) : Result State :=
  putCount (leadingZeros src) (~~~(floodDown src)) rd s

def execClzReg (cond : Cond) (rd rs : Reg) (s : State) : Result State :=
  conditionally cond .twoByte s fun s => countLeading rd (readReg rs s) s

def execClzShort (cond : Cond) (rd : Reg) (imm : BitVec 3) (s : State) : Result State :=
  conditionally cond .twoByte s fun s => countLeading rd (shortSigned imm) s

def execClzLong (cond : Cond) (rd : Reg) (s : State) : Result State :=
  conditionally cond .long s fun s => withLong s fun imm s => countLeading rd imm s

/-! ### CTZ (R151, microcode R254) -/

def countTrailing (rd : Reg) (src : Word) (s : State) : Result State :=
  putCount (trailingZeros src) (~~~(floodDown (reverseBits src))) rd s

def execCtzReg (cond : Cond) (rd rs : Reg) (s : State) : Result State :=
  conditionally cond .twoByte s fun s => countTrailing rd (readReg rs s) s

def execCtzShort (cond : Cond) (rd : Reg) (imm : BitVec 3) (s : State) : Result State :=
  conditionally cond .twoByte s fun s => countTrailing rd (shortSigned imm) s

def execCtzLong (cond : Cond) (rd : Reg) (s : State) : Result State :=
  conditionally cond .long s fun s => withLong s fun imm s => countTrailing rd imm s

/-! ### CBS (R152, microcode R251) -/

def countOnes (rd : Reg) (src : Word) (s : State) : Result State :=
  putCount (onesCount src) src rd s

def execCbsReg (cond : Cond) (rd rs : Reg) (s : State) : Result State :=
  conditionally cond .twoByte s fun s => countOnes rd (readReg rs s) s

def execCbsShort (cond : Cond) (rd : Reg) (imm : BitVec 3) (s : State) : Result State :=
  conditionally cond .twoByte s fun s => countOnes rd (shortSigned imm) s

def execCbsLong (cond : Cond) (rd : Reg) (s : State) : Result State :=
  conditionally cond .long s fun s => withLong s fun imm s => countOnes rd imm s

end Sys2Proof.Machine
end

