-- ==== Sys2Proof/Machine/ControlFlow.lean ====
section
/-! DEFINITION. Control flow: J, CALL, RET (spec/46_control_flow.md). None writes a flag; targets are absolute and need
no alignment (R28). -/

namespace Sys2Proof.Machine

/-! ### J (R200, microcode R256) -/

def execJReg (cond : Cond) (rs : Reg) (s : State) : Result State :=
  conditionally cond .twoByte s fun s => .next (setPc (readReg rs s) s)

/-- The long form loads A and B the other way round from the rest (R256). -/
def execJLong (cond : Cond) (s : State) : Result State :=
  conditionally cond .long s fun s => withLong s fun imm s =>
    .next (setAB (lowPart imm) (highPart imm) (setPc imm s))

/-! ### CALL (R201, R202, microcode R250) -/

/-- The target register is read after SP was updated (R201). -/
def execCallReg (cond : Cond) (rs : Reg) (s : State) : Result State :=
  conditionally cond .twoByte s fun s =>
    andThen (pushWord s.pc s) fun s1 => .next (setPc (readReg rs s1) s1)

/-- The return address of the long form, `CALL_IMM_RETURN` (R202, C3, decision D2, log 9); pc is `I0 + 2` here. -/
def longReturnAddress (s : State) : Word :=
  match s.platform.callImmReturn with
  | .nextInstruction => s.pc + 2#16
  | .immediateAddress => s.pc

/-- The long form reads its immediate after the push (R55, R202). -/
def execCallLong (cond : Cond) (s : State) : Result State :=
  conditionally cond .long s fun s =>
    andThen (pushWord (longReturnAddress s) s) fun s1 =>
    andThen (readWord s1.pc s1) fun imm =>
    .next (setAB (lowPart imm) (highPart imm) (setPc imm s1))

/-! ### RET (R203, microcode R267) -/

def execRet (cond : Cond) (s : State) : Result State :=
  conditionally cond .twoByte s fun s => returnFrom s

end Sys2Proof.Machine
end

