-- ==== Sys2Proof/Machine/Exchange.lean ====
section
/-! DEFINITION. Exchanges: XCG, FLG (spec/47_exchanges.md). -/

namespace Sys2Proof.Machine

/-- XCG (R210, microcode R276): a swap, which leaves a register exchanged with itself unchanged. The microcode's three
exclusive-ors leave A the exclusive-or of the two and B the old `rd`. No flag is written. -/
def execXcg (cond : Cond) (rd rs : Reg) (s : State) : Result State :=
  conditionally cond .twoByte s fun s =>
    let x := readReg rd s
    let y := readReg rs s
    .next (setAB (x ^^^ y) x (writeReg rd y (writeReg rs x s)))

/-! ### FLG (R211, microcode R255) -/

/-- The old flags, zero-extended, to `rd`, and the low four bits of the source, read before, to the flags. The
microcode leaves the reversed flags in A and the source in B. -/
def transferFlags (rd : Reg) (src : Word) (s : State) : State :=
  let old := s.flags.toWord
  setAB (reverseBits old) src (setFlags (Flags.ofNibble (src.setWidth 4)) (writeReg rd old s))

def execFlgReg (cond : Cond) (rd rs : Reg) (s : State) : Result State :=
  conditionally cond .twoByte s fun s => .next (transferFlags rd (readReg rs s) s)

/-- The long form reads only the low byte of its immediate (R55). -/
def execFlgLong (cond : Cond) (rd : Reg) (s : State) : Result State :=
  conditionally cond .long s fun s => withLongLowByte s fun lo s => .next (transferFlags rd (lo.setWidth 16) s)

end Sys2Proof.Machine
end

