-- ==== Sys2Proof/Machine/LoadStore.lean ====
section
/-! DEFINITION. Loads and stores: LD, LDI, STI (spec/40_loads_stores.md). None writes a flag. -/

namespace Sys2Proof.Machine

/-! ### LD (R120, microcode R257) -/

def execLdReg (cond : Cond) (rd rs : Reg) (s : State) : Result State :=
  conditionally cond .twoByte s fun s =>
    .next (setAB (readReg rs s) (readReg rs s) (writeReg rd (readReg rs s) s))

/-- The short form passes the instruction word through A. -/
def execLdShort (cond : Cond) (rd : Reg) (imm : BitVec 3) (s : State) : Result State :=
  conditionally cond .twoByte s fun s => .next (setA s.hid.i (writeReg rd (shortSigned imm) s))

def execLdLong (cond : Cond) (rd : Reg) (s : State) : Result State :=
  conditionally cond .long s fun s => withLong s fun imm s => .next (writeReg rd imm s)

/-! ### LDI (R121, microcode R258) -/

/-- A word-sized load: low byte first, the address read before the destination is written. -/
def loadWord (rd : Reg) (addr : Word) (s : State) : Result State :=
  andThen (readWord addr s) fun v => .next (setAB (highPart v) (lowPart v) (writeReg rd v s))

def execLdiReg (cond : Cond) (rd rs : Reg) (s : State) : Result State :=
  conditionally cond .twoByte s fun s => loadWord rd (readReg rs s) s

def execLdiLong (cond : Cond) (rd : Reg) (s : State) : Result State :=
  conditionally cond .long s fun s => withLong s fun imm s => loadWord rd imm s

/-! ### STI (R94, R122, microcode R274)

`rd` holds the address and is not changed; the microcode's A has moved past the first byte. -/

def execStiByte (cond : Cond) (rd rs : Reg) (s : State) : Result State :=
  conditionally cond .twoByte s fun s =>
    andThen (writeByte (readReg rd s) (lowByte (readReg rs s)) s) fun s1 =>
    .next (setA (readReg rd s + 1#16) s1)

def execStiWord (cond : Cond) (rd rs : Reg) (s : State) : Result State :=
  conditionally cond .twoByte s fun s =>
    andThen (storeWord (readReg rd s) (readReg rs s) s) fun s1 =>
    .next (setA (readReg rd s + 1#16) s1)

end Sys2Proof.Machine
end

