-- ==== Sys2Proof/Machine/Logic.lean ====
section
/-! DEFINITION. Logic: AND, OR, XOR, NOT (spec/43_logic.md). N and Z from the result, C and V unchanged (R164). -/

namespace Sys2Proof.Machine

/-! ### AND (R160, microcode R248) -/

def execAndReg (cond : Cond) (rd rs : Reg) (s : State) : Result State :=
  conditionally cond .twoByte s fun s => twoOperand andAlu rd (readReg rs s) s

def execAndShort (cond : Cond) (rd : Reg) (imm : BitVec 3) (s : State) : Result State :=
  conditionally cond .twoByte s fun s => twoOperand andAlu rd (shortSigned imm) s

def execAndLong (cond : Cond) (rd : Reg) (s : State) : Result State :=
  conditionally cond .long s fun s => withLong s fun imm s => twoOperand andAlu rd imm s

/-! ### OR (R161, microcode R264) -/

def execOrReg (cond : Cond) (rd rs : Reg) (s : State) : Result State :=
  conditionally cond .twoByte s fun s => twoOperand orAlu rd (readReg rs s) s

def execOrShort (cond : Cond) (rd : Reg) (imm : BitVec 3) (s : State) : Result State :=
  conditionally cond .twoByte s fun s => twoOperand orAlu rd (shortSigned imm) s

def execOrLong (cond : Cond) (rd : Reg) (s : State) : Result State :=
  conditionally cond .long s fun s => withLong s fun imm s => twoOperand orAlu rd imm s

/-! ### XOR (R162, microcode R277) -/

def execXorReg (cond : Cond) (rd rs : Reg) (s : State) : Result State :=
  conditionally cond .twoByte s fun s => twoOperand xorAlu rd (readReg rs s) s

def execXorShort (cond : Cond) (rd : Reg) (imm : BitVec 3) (s : State) : Result State :=
  conditionally cond .twoByte s fun s => twoOperand xorAlu rd (shortSigned imm) s

def execXorLong (cond : Cond) (rd : Reg) (s : State) : Result State :=
  conditionally cond .long s fun s => withLong s fun imm s => twoOperand xorAlu rd imm s

/-! ### NOT (R163, microcode R262) -/

/-- The complement of the source to `rd`, with its flags. -/
def complement (rd : Reg) (src : Word) (s : State) : State :=
  let out := notAlu src s.flags
  setFlags out.flags (writeReg rd out.value s)

def execNotReg (cond : Cond) (rd rs : Reg) (s : State) : Result State :=
  conditionally cond .twoByte s fun s => .next (setAB (readReg rs s) (readReg rs s) (complement rd (readReg rs s) s))

def execNotShort (cond : Cond) (rd : Reg) (imm : BitVec 3) (s : State) : Result State :=
  conditionally cond .twoByte s fun s =>
    .next (setAB (shortSigned imm) (shortSigned imm) (complement rd (shortSigned imm) s))

/-- The long form leaves the two halves of the immediate in A and B. -/
def execNotLong (cond : Cond) (rd : Reg) (s : State) : Result State :=
  conditionally cond .long s fun s => withLong s fun imm s => .next (complement rd imm s)

end Sys2Proof.Machine
end

