-- ==== Sys2Proof/Machine/Reserved.lean ====
section
/-! DEFINITION. The reserved forms (R96): no meaning, whatever the condition field says. -/

namespace Sys2Proof.Machine

/-- `Refuse(ReservedForm)` (R12, R96, log 16). -/
def reservedForm (_ : State) : Result State := .refused .reservedForm

/-- LDI with the mode bit set and a source field other than 100. -/
def execLdiReserved (s : State) : Result State := reservedForm s

/-- XCG with the mode bit set. -/
def execXcgReserved (s : State) : Result State := reservedForm s

/-- FLG with the mode bit set and a source field other than 100. -/
def execFlgReserved (s : State) : Result State := reservedForm s

/-- PUSH with the mode bit set. -/
def execPushReserved (s : State) : Result State := reservedForm s

/-- POP with the mode bit set. -/
def execPopReserved (s : State) : Result State := reservedForm s

/-- J with the mode bit set and a source field other than 100. -/
def execJReserved (s : State) : Result State := reservedForm s

/-- CALL with the mode bit set and a source field other than 100. -/
def execCallReserved (s : State) : Result State := reservedForm s

/-- RET with the mode bit set. -/
def execRetReserved (s : State) : Result State := reservedForm s

end Sys2Proof.Machine
end

