-- ==== Sys2Proof/Machine/Shifts.lean ====
section
/-! DEFINITION. Rotations and shifts: ROR, ROL, RRC, RLC, LSR, LSL, ASR (spec/44_rotations_shifts.md). The count is the
source operand, treated as unsigned, all 16 bits of it (R177). -/

namespace Sys2Proof.Machine

/-! ### ROR (R170, microcode R270) -/

def execRorReg (cond : Cond) (rd rs : Reg) (s : State) : Result State :=
  conditionally cond .twoByte s fun s => twoOperand rorAlu rd (readReg rs s) s

def execRorShort (cond : Cond) (rd : Reg) (imm : BitVec 3) (s : State) : Result State :=
  conditionally cond .twoByte s fun s => twoOperand rorAlu rd (shortUnsigned imm) s

def execRorLong (cond : Cond) (rd : Reg) (s : State) : Result State :=
  conditionally cond .long s fun s => withLong s fun imm s => twoOperand rorAlu rd imm s

/-! ### ROL (R171, microcode R269) -/

def execRolReg (cond : Cond) (rd rs : Reg) (s : State) : Result State :=
  conditionally cond .twoByte s fun s => twoOperand rolAlu rd (readReg rs s) s

def execRolShort (cond : Cond) (rd : Reg) (imm : BitVec 3) (s : State) : Result State :=
  conditionally cond .twoByte s fun s => twoOperand rolAlu rd (shortUnsigned imm) s

def execRolLong (cond : Cond) (rd : Reg) (s : State) : Result State :=
  conditionally cond .long s fun s => withLong s fun imm s => twoOperand rolAlu rd imm s

/-! ### RRC (R172, microcode R271) -/

def execRrcReg (cond : Cond) (rd rs : Reg) (s : State) : Result State :=
  conditionally cond .twoByte s fun s => twoOperand rrcAlu rd (readReg rs s) s

def execRrcShort (cond : Cond) (rd : Reg) (imm : BitVec 3) (s : State) : Result State :=
  conditionally cond .twoByte s fun s => twoOperand rrcAlu rd (shortUnsigned imm) s

def execRrcLong (cond : Cond) (rd : Reg) (s : State) : Result State :=
  conditionally cond .long s fun s => withLong s fun imm s => twoOperand rrcAlu rd imm s

/-! ### RLC (R173, microcode R268) -/

def execRlcReg (cond : Cond) (rd rs : Reg) (s : State) : Result State :=
  conditionally cond .twoByte s fun s => twoOperand rlcAlu rd (readReg rs s) s

def execRlcShort (cond : Cond) (rd : Reg) (imm : BitVec 3) (s : State) : Result State :=
  conditionally cond .twoByte s fun s => twoOperand rlcAlu rd (shortUnsigned imm) s

def execRlcLong (cond : Cond) (rd : Reg) (s : State) : Result State :=
  conditionally cond .long s fun s => withLong s fun imm s => twoOperand rlcAlu rd imm s

/-! ### LSR (R174, microcode R260) -/

def execLsrReg (cond : Cond) (rd rs : Reg) (s : State) : Result State :=
  conditionally cond .twoByte s fun s => twoOperand lsrAlu rd (readReg rs s) s

def execLsrShort (cond : Cond) (rd : Reg) (imm : BitVec 3) (s : State) : Result State :=
  conditionally cond .twoByte s fun s => twoOperand lsrAlu rd (shortUnsigned imm) s

def execLsrLong (cond : Cond) (rd : Reg) (s : State) : Result State :=
  conditionally cond .long s fun s => withLong s fun imm s => twoOperand lsrAlu rd imm s

/-! ### LSL (R175, microcode R259) -/

def execLslReg (cond : Cond) (rd rs : Reg) (s : State) : Result State :=
  conditionally cond .twoByte s fun s => twoOperand lslAlu rd (readReg rs s) s

def execLslShort (cond : Cond) (rd : Reg) (imm : BitVec 3) (s : State) : Result State :=
  conditionally cond .twoByte s fun s => twoOperand lslAlu rd (shortUnsigned imm) s

def execLslLong (cond : Cond) (rd : Reg) (s : State) : Result State :=
  conditionally cond .long s fun s => withLong s fun imm s => twoOperand lslAlu rd imm s

/-! ### ASR (R176, microcode R249) -/

def execAsrReg (cond : Cond) (rd rs : Reg) (s : State) : Result State :=
  conditionally cond .twoByte s fun s => twoOperand asrAlu rd (readReg rs s) s

def execAsrShort (cond : Cond) (rd : Reg) (imm : BitVec 3) (s : State) : Result State :=
  conditionally cond .twoByte s fun s => twoOperand asrAlu rd (shortUnsigned imm) s

def execAsrLong (cond : Cond) (rd : Reg) (s : State) : Result State :=
  conditionally cond .long s fun s => withLong s fun imm s => twoOperand asrAlu rd imm s

end Sys2Proof.Machine
end

