-- ==== Sys2Proof/Machine/Stack.lean ====
section
/-! DEFINITION. Stack operations: PUSH, POP (spec/45_stack.md). Neither writes a flag. -/

namespace Sys2Proof.Machine

/-- PUSH (R190, microcode R266): the source is read before SP changes. -/
def execPush (cond : Cond) (rs : Reg) (s : State) : Result State :=
  conditionally cond .twoByte s fun s => pushWord (readReg rs s) s

/-- POP (R191, C10, microcode R265): the popped word goes to `rd` first, then SP is read again and advanced. -/
def execPop (cond : Cond) (rd : Reg) (s : State) : Result State :=
  conditionally cond .twoByte s fun s =>
    andThen (topWord s) fun v => .next (dropWord (writeReg rd v s))

end Sys2Proof.Machine
end

