-- ==== Sys2Proof/Machine/Dispatch.lean ====
section
/-! DEFINITION. One arm per row of spec/opcode_table.json. An instruction starts in the state its fetch leaves: pc is the
address of the byte after the instruction word (R100). -/

namespace Sys2Proof.Machine

def exec (i : Instr) (s : State) : Host.Outcome State Fault Refusal :=
  match i with
  -- LD
  | .ldReg cond rd rs => Sys2Proof.Machine.execLdReg cond rd rs s
  | .ldShort cond rd imm => Sys2Proof.Machine.execLdShort cond rd imm s
  | .ldLong cond rd => Sys2Proof.Machine.execLdLong cond rd s
  -- LDI
  | .ldiReg cond rd rs => Sys2Proof.Machine.execLdiReg cond rd rs s
  | .ldiLong cond rd => Sys2Proof.Machine.execLdiLong cond rd s
  | .ldiReserved _ _ _ => Sys2Proof.Machine.execLdiReserved s
  -- STI
  | .stiByte cond rd rs => Sys2Proof.Machine.execStiByte cond rd rs s
  | .stiWord cond rd rs => Sys2Proof.Machine.execStiWord cond rd rs s
  -- NEG
  | .negReg cond rd rs => Sys2Proof.Machine.execNegReg cond rd rs s
  | .negShort cond rd imm => Sys2Proof.Machine.execNegShort cond rd imm s
  | .negLong cond rd => Sys2Proof.Machine.execNegLong cond rd s
  -- SEX
  | .sexReg cond rd rs => Sys2Proof.Machine.execSexReg cond rd rs s
  | .sexShort cond rd imm => Sys2Proof.Machine.execSexShort cond rd imm s
  | .sexLong cond rd => Sys2Proof.Machine.execSexLong cond rd s
  -- OFFS
  | .offsReg cond rd rs => Sys2Proof.Machine.execOffsReg cond rd rs s
  | .offsShort cond rd imm => Sys2Proof.Machine.execOffsShort cond rd imm s
  | .offsLong cond rd => Sys2Proof.Machine.execOffsLong cond rd s
  -- CMP
  | .cmpReg cond rd rs => Sys2Proof.Machine.execCmpReg cond rd rs s
  | .cmpShort cond rd imm => Sys2Proof.Machine.execCmpShort cond rd imm s
  | .cmpLong cond rd => Sys2Proof.Machine.execCmpLong cond rd s
  -- XCG
  | .xcg cond rd rs => Sys2Proof.Machine.execXcg cond rd rs s
  | .xcgReserved _ _ _ => Sys2Proof.Machine.execXcgReserved s
  -- CLZ
  | .clzReg cond rd rs => Sys2Proof.Machine.execClzReg cond rd rs s
  | .clzShort cond rd imm => Sys2Proof.Machine.execClzShort cond rd imm s
  | .clzLong cond rd => Sys2Proof.Machine.execClzLong cond rd s
  -- CTZ
  | .ctzReg cond rd rs => Sys2Proof.Machine.execCtzReg cond rd rs s
  | .ctzShort cond rd imm => Sys2Proof.Machine.execCtzShort cond rd imm s
  | .ctzLong cond rd => Sys2Proof.Machine.execCtzLong cond rd s
  -- CBS
  | .cbsReg cond rd rs => Sys2Proof.Machine.execCbsReg cond rd rs s
  | .cbsShort cond rd imm => Sys2Proof.Machine.execCbsShort cond rd imm s
  | .cbsLong cond rd => Sys2Proof.Machine.execCbsLong cond rd s
  -- FLG
  | .flgReg cond rd rs => Sys2Proof.Machine.execFlgReg cond rd rs s
  | .flgLong cond rd => Sys2Proof.Machine.execFlgLong cond rd s
  | .flgReserved _ _ _ => Sys2Proof.Machine.execFlgReserved s
  -- PUSH
  | .push cond rs => Sys2Proof.Machine.execPush cond rs s
  | .pushReserved _ _ _ => Sys2Proof.Machine.execPushReserved s
  -- POP
  | .pop cond rd => Sys2Proof.Machine.execPop cond rd s
  | .popReserved _ _ _ => Sys2Proof.Machine.execPopReserved s
  -- J
  | .jReg cond rs => Sys2Proof.Machine.execJReg cond rs s
  | .jLong cond => Sys2Proof.Machine.execJLong cond s
  | .jReserved _ _ _ => Sys2Proof.Machine.execJReserved s
  -- CALL
  | .callReg cond rs => Sys2Proof.Machine.execCallReg cond rs s
  | .callLong cond => Sys2Proof.Machine.execCallLong cond s
  | .callReserved _ _ _ => Sys2Proof.Machine.execCallReserved s
  -- AND
  | .andReg cond rd rs => Sys2Proof.Machine.execAndReg cond rd rs s
  | .andShort cond rd imm => Sys2Proof.Machine.execAndShort cond rd imm s
  | .andLong cond rd => Sys2Proof.Machine.execAndLong cond rd s
  -- OR
  | .orReg cond rd rs => Sys2Proof.Machine.execOrReg cond rd rs s
  | .orShort cond rd imm => Sys2Proof.Machine.execOrShort cond rd imm s
  | .orLong cond rd => Sys2Proof.Machine.execOrLong cond rd s
  -- XOR
  | .xorReg cond rd rs => Sys2Proof.Machine.execXorReg cond rd rs s
  | .xorShort cond rd imm => Sys2Proof.Machine.execXorShort cond rd imm s
  | .xorLong cond rd => Sys2Proof.Machine.execXorLong cond rd s
  -- NOT
  | .notReg cond rd rs => Sys2Proof.Machine.execNotReg cond rd rs s
  | .notShort cond rd imm => Sys2Proof.Machine.execNotShort cond rd imm s
  | .notLong cond rd => Sys2Proof.Machine.execNotLong cond rd s
  -- ADD
  | .addReg cond rd rs => Sys2Proof.Machine.execAddReg cond rd rs s
  | .addShort cond rd imm => Sys2Proof.Machine.execAddShort cond rd imm s
  | .addLong cond rd => Sys2Proof.Machine.execAddLong cond rd s
  -- ADC
  | .adcReg cond rd rs => Sys2Proof.Machine.execAdcReg cond rd rs s
  | .adcShort cond rd imm => Sys2Proof.Machine.execAdcShort cond rd imm s
  | .adcLong cond rd => Sys2Proof.Machine.execAdcLong cond rd s
  -- SUB
  | .subReg cond rd rs => Sys2Proof.Machine.execSubReg cond rd rs s
  | .subShort cond rd imm => Sys2Proof.Machine.execSubShort cond rd imm s
  | .subLong cond rd => Sys2Proof.Machine.execSubLong cond rd s
  -- SBC
  | .sbcReg cond rd rs => Sys2Proof.Machine.execSbcReg cond rd rs s
  | .sbcShort cond rd imm => Sys2Proof.Machine.execSbcShort cond rd imm s
  | .sbcLong cond rd => Sys2Proof.Machine.execSbcLong cond rd s
  -- ROR
  | .rorReg cond rd rs => Sys2Proof.Machine.execRorReg cond rd rs s
  | .rorShort cond rd imm => Sys2Proof.Machine.execRorShort cond rd imm s
  | .rorLong cond rd => Sys2Proof.Machine.execRorLong cond rd s
  -- ROL
  | .rolReg cond rd rs => Sys2Proof.Machine.execRolReg cond rd rs s
  | .rolShort cond rd imm => Sys2Proof.Machine.execRolShort cond rd imm s
  | .rolLong cond rd => Sys2Proof.Machine.execRolLong cond rd s
  -- RRC
  | .rrcReg cond rd rs => Sys2Proof.Machine.execRrcReg cond rd rs s
  | .rrcShort cond rd imm => Sys2Proof.Machine.execRrcShort cond rd imm s
  | .rrcLong cond rd => Sys2Proof.Machine.execRrcLong cond rd s
  -- RLC
  | .rlcReg cond rd rs => Sys2Proof.Machine.execRlcReg cond rd rs s
  | .rlcShort cond rd imm => Sys2Proof.Machine.execRlcShort cond rd imm s
  | .rlcLong cond rd => Sys2Proof.Machine.execRlcLong cond rd s
  -- LSR
  | .lsrReg cond rd rs => Sys2Proof.Machine.execLsrReg cond rd rs s
  | .lsrShort cond rd imm => Sys2Proof.Machine.execLsrShort cond rd imm s
  | .lsrLong cond rd => Sys2Proof.Machine.execLsrLong cond rd s
  -- LSL
  | .lslReg cond rd rs => Sys2Proof.Machine.execLslReg cond rd rs s
  | .lslShort cond rd imm => Sys2Proof.Machine.execLslShort cond rd imm s
  | .lslLong cond rd => Sys2Proof.Machine.execLslLong cond rd s
  -- ASR
  | .asrReg cond rd rs => Sys2Proof.Machine.execAsrReg cond rd rs s
  | .asrShort cond rd imm => Sys2Proof.Machine.execAsrShort cond rd imm s
  | .asrLong cond rd => Sys2Proof.Machine.execAsrLong cond rd s
  -- RET
  | .ret cond => Sys2Proof.Machine.execRet cond s
  | .retReserved _ _ _ => Sys2Proof.Machine.execRetReserved s

end Sys2Proof.Machine
end

