-- ==== Sys2Proof/Machine/Step.lean ====
section
/-! DEFINITION. One step of the instruction-level machine (R100), and how the host places the next instruction. -/

namespace Sys2Proof.Machine

/-- R100: a pending request is examined at the top of the step and wins; otherwise the instruction at pc is fetched and
executed. -/
def step (s : State) : Host.Outcome State Fault Refusal :=
  if s.pending then interruptEntry s
  else andThen (fetch s) fun fetched => exec fetched.1 fetched.2

/-- `s` with the instruction whose bits are `w` (as spec/opcode_table.json numbers them) in memory at pc, and no request
pending, so that the next step runs it (log 12). -/
def State.withFetchWord (s : State) (nbits w : Nat) : State :=
  placeBytes s.pc (layOut nbits w) { s with pending := false }

end Sys2Proof.Machine
end

