-- ==== Sys2Proof/Machine/Assembler.lean ====
section
/-! DEFINITION. The standard assembler's statements (spec/30_encoding.md R101 to R108, decision D14, log 29): how an
instruction is spelled, and which bytes a statement stands for. Text is a list of characters, in lower case. -/

namespace Sys2Proof.Machine

/-! ### Spelling (R101 to R103) -/

/-- The assembler's mnemonics: those of R83, with LDI and STI written as `ld` and `ldb` (R102). -/
inductive Mnemonic where
  | ld | ldb | neg | sex | offs | cmp | xcg
  | clz | ctz | cbs | flg | push | pop | j | call
  | andOp | orOp | xor | notOp | add | adc | sub | sbc
  | ror | rol | rrc | rlc | lsr | lsl | asr | ret
deriving DecidableEq, Repr

def Mnemonic.text (m : Mnemonic) : List Char :=
  match m with
  | .ld => ['l', 'd'] | .ldb => ['l', 'd', 'b'] | .neg => ['n', 'e', 'g'] | .sex => ['s', 'e', 'x']
  | .offs => ['o', 'f', 'f', 's'] | .cmp => ['c', 'm', 'p'] | .xcg => ['x', 'c', 'g']
  | .clz => ['c', 'l', 'z'] | .ctz => ['c', 't', 'z'] | .cbs => ['c', 'b', 's'] | .flg => ['f', 'l', 'g']
  | .push => ['p', 'u', 's', 'h'] | .pop => ['p', 'o', 'p'] | .j => ['j'] | .call => ['c', 'a', 'l', 'l']
  | .andOp => ['a', 'n', 'd'] | .orOp => ['o', 'r'] | .xor => ['x', 'o', 'r'] | .notOp => ['n', 'o', 't']
  | .add => ['a', 'd', 'd'] | .adc => ['a', 'd', 'c'] | .sub => ['s', 'u', 'b'] | .sbc => ['s', 'b', 'c']
  | .ror => ['r', 'o', 'r'] | .rol => ['r', 'o', 'l'] | .rrc => ['r', 'r', 'c'] | .rlc => ['r', 'l', 'c']
  | .lsr => ['l', 's', 'r'] | .lsl => ['l', 's', 'l'] | .asr => ['a', 's', 'r'] | .ret => ['r', 'e', 't']

/-- The suffix of a condition, the name column of R84; none for code 0000 (R103). -/
def condSuffix (cond : Cond) : List Char :=
  match cond with
  | .always => [] | .c => ['c'] | .n => ['n'] | .v => ['v'] | .z => ['z'] | .ls => ['l', 's'] | .lt => ['l', 't']
  | .le => ['l', 'e'] | .never => ['f'] | .cc => ['c', 'c'] | .p => ['p'] | .nv => ['n', 'v'] | .nz => ['n', 'z']
  | .hi => ['h', 'i'] | .ge => ['g', 'e'] | .gt => ['g', 't']

/-- A mnemonic with its condition attached, no separator between them (R101, R103). -/
def spelling (m : Mnemonic) (cond : Cond) : List Char := m.text ++ condSuffix cond

def regText (r : Reg) : List Char :=
  match r with
  | .r0 => ['r', '0'] | .r1 => ['r', '1'] | .r2 => ['r', '2'] | .r3 => ['r', '3']
  | .r4 => ['r', '4'] | .r5 => ['r', '5'] | .r6 => ['r', '6'] | .sp => ['s', 'p']

/-! ### Statements (R101, R102, R104) -/

/-- An operand: a register, a number, or either in parentheses, which mean the memory it addresses (R102). -/
inductive AsmOperand where
  | reg (r : Reg)
  | num (v : Int)
  | atReg (r : Reg)
  | atNum (v : Int)
deriving DecidableEq, Repr

/-- A statement (R101, R104). A label is the address of the statement it stands before, which is the caller's to
know (R105); `ram` switches to the RAM segment and inserts nothing (R60, R104). -/
inductive Statement where
  | instr (m : Mnemonic) (cond : Cond) (operands : List AsmOperand)
  | db (bytes : List Int)
  | dw (words : List Int)
  | ram
deriving DecidableEq, Repr

/-- An instruction as the assembler produces it, with its long immediate (zero when the form has none). -/
structure Assembled where
  instr : Instr
  imm   : Word
deriving DecidableEq, Repr

/-! ### The choice of form (R106, decision D14) -/

/-- A number that sixteen bits can hold, signed or unsigned. DESIGN CHOICE: the manual does not say (R108, log 29). -/
def wordOf (v : Int) : Option Word := if -32768 ≤ v ∧ v ≤ 65535 then some (BitVec.ofInt 16 v) else none

/-- A number that eight bits can hold, signed or unsigned. -/
def byteOf (v : Int) : Option Byte := if -128 ≤ v ∧ v ≤ 255 then some (BitVec.ofInt 8 v) else none

def withNumber (i : Instr) (v : Int) : Option Assembled := (wordOf v).map fun w => ⟨i, w⟩

/-- -3 to 3 in the short form, the rest long (R89, R106). -/
def signedChoice (short : BitVec 3 → Instr) (long : Instr) (v : Int) : Option Assembled :=
  if -3 ≤ v ∧ v ≤ 3 then some ⟨short (BitVec.ofInt 3 v), 0⟩ else withNumber long v

/-- Even, -6 to 6, in the short form of OFFS, which doubles it (R92, R106). -/
def doubledChoice (short : BitVec 3 → Instr) (long : Instr) (v : Int) : Option Assembled :=
  if -6 ≤ v ∧ v ≤ 6 ∧ v % 2 = 0 then some ⟨short (BitVec.ofInt 3 (v / 2)), 0⟩ else withNumber long v

/-- 1 to 7 in the short form of a shift or rotate (R90, R106). -/
def countChoice (short : BitVec 3 → Instr) (long : Instr) (v : Int) : Option Assembled :=
  if 1 ≤ v ∧ v ≤ 7 then some ⟨short (BitVec.ofInt 3 v), 0⟩ else withNumber long v

/-- `mnemonic destination,source` for the instructions with three forms. -/
def assembleThree (reg : Reg → Reg → Instr) (number : Reg → Int → Option Assembled) (operands : List AsmOperand) :
    Option Assembled :=
  match operands with
  | [.reg rd, .reg rs] => some ⟨reg rd rs, 0⟩
  | [.reg rd, .num v] => number rd v
  | _ => none

/-- The source forms of the signed family, of OFFS and of the shifts. -/
def assembleSigned (cond : Cond) (reg : Cond → Reg → Reg → Instr) (short : Cond → Reg → BitVec 3 → Instr)
    (long : Cond → Reg → Instr) (operands : List AsmOperand) : Option Assembled :=
  assembleThree (reg cond) (fun rd v => signedChoice (short cond rd) (long cond rd) v) operands

def assembleCount (cond : Cond) (reg : Cond → Reg → Reg → Instr) (short : Cond → Reg → BitVec 3 → Instr)
    (long : Cond → Reg → Instr) (operands : List AsmOperand) : Option Assembled :=
  assembleThree (reg cond) (fun rd v => countChoice (short cond rd) (long cond rd) v) operands

/-- `ld` and its indirect forms (R102). -/
def assembleLd (cond : Cond) (operands : List AsmOperand) : Option Assembled :=
  match operands with
  | [.reg rd, .atReg rs] => some ⟨.ldiReg cond rd rs, 0⟩
  | [.reg rd, .atNum v] => withNumber (.ldiLong cond rd) v
  | [.atReg rd, .reg rs] => some ⟨.stiWord cond rd rs, 0⟩
  | _ => assembleSigned cond .ldReg .ldShort .ldLong operands

/-- The one instruction a statement stands for, if it is one (R101 to R103, R106). -/
def assembleInstr (m : Mnemonic) (cond : Cond) (operands : List AsmOperand) : Option Assembled :=
  match m with
  | .ld => assembleLd cond operands
  | .ldb =>
    match operands with
    | [.atReg rd, .reg rs] => some ⟨.stiByte cond rd rs, 0⟩
    | _ => none
  | .neg => assembleSigned cond .negReg .negShort .negLong operands
  | .sex => assembleSigned cond .sexReg .sexShort .sexLong operands
  | .offs =>
    assembleThree (.offsReg cond) (fun rd v => doubledChoice (.offsShort cond rd) (.offsLong cond rd) v) operands
  | .cmp => assembleSigned cond .cmpReg .cmpShort .cmpLong operands
  | .xcg =>
    match operands with
    | [.reg rd, .reg rs] => some ⟨.xcg cond rd rs, 0⟩
    | _ => none
  | .clz => assembleSigned cond .clzReg .clzShort .clzLong operands
  | .ctz => assembleSigned cond .ctzReg .ctzShort .ctzLong operands
  | .cbs => assembleSigned cond .cbsReg .cbsShort .cbsLong operands
  | .flg => assembleThree (.flgReg cond) (fun rd v => withNumber (.flgLong cond rd) v) operands
  | .push =>
    match operands with
    | [.reg rs] => some ⟨.push cond rs, 0⟩
    | _ => none
  | .pop =>
    match operands with
    | [.reg rd] => some ⟨.pop cond rd, 0⟩
    | _ => none
  | .j =>
    match operands with
    | [.reg rs] => some ⟨.jReg cond rs, 0⟩
    | [.num v] => withNumber (.jLong cond) v
    | _ => none
  | .call =>
    match operands with
    | [.reg rs] => some ⟨.callReg cond rs, 0⟩
    | [.num v] => withNumber (.callLong cond) v
    | _ => none
  | .andOp => assembleSigned cond .andReg .andShort .andLong operands
  | .orOp => assembleSigned cond .orReg .orShort .orLong operands
  | .xor => assembleSigned cond .xorReg .xorShort .xorLong operands
  | .notOp => assembleSigned cond .notReg .notShort .notLong operands
  | .add => assembleSigned cond .addReg .addShort .addLong operands
  | .adc => assembleSigned cond .adcReg .adcShort .adcLong operands
  | .sub => assembleSigned cond .subReg .subShort .subLong operands
  | .sbc => assembleSigned cond .sbcReg .sbcShort .sbcLong operands
  | .ror => assembleCount cond .rorReg .rorShort .rorLong operands
  | .rol => assembleCount cond .rolReg .rolShort .rolLong operands
  | .rrc => assembleCount cond .rrcReg .rrcShort .rrcLong operands
  | .rlc => assembleCount cond .rlcReg .rlcShort .rlcLong operands
  | .lsr => assembleCount cond .lsrReg .lsrShort .lsrLong operands
  | .lsl => assembleCount cond .lslReg .lslShort .lslLong operands
  | .asr => assembleCount cond .asrReg .asrShort .asrLong operands
  | .ret =>
    match operands with
    | [] => some ⟨.ret cond, 0⟩
    | _ => none

/-! ### Bytes -/

/-- The bytes of a word in memory order, low byte first (R52, R104). -/
def littleEndian (w : Word) : List Byte := [lowByte w, highByte w]

/-- Every element, or nothing where one has no value. -/
def collect {α : Type} (xs : List (Option α)) : Option (List α) :=
  match xs with
  | [] => some []
  | none :: _ => none
  | some x :: rest => (collect rest).map fun ys => x :: ys

/-- The bytes a statement inserts (R101, R104); nothing for a statement the syntax does not allow. -/
def assemble (st : Statement) : Option (List Byte) :=
  match st with
  | .instr m cond operands => (assembleInstr m cond operands).map fun a => encode a.instr a.imm
  | .db bytes => collect (bytes.map byteOf)
  | .dw words => (collect (words.map wordOf)).map fun ws => (ws.map littleEndian).flatten
  | .ram => some []

/-! ### Labels as operands (R105, R204) -/

/-- The signed distance from one address to another, modulo 2^16. -/
def distance (fromAddr toAddr : Word) : Int := (toAddr - fromAddr).toInt

/-- `offs rd,label` at address `here`: the short form where the distance from the address after two bytes is even and
within -6 to 6, otherwise the long form with the distance from the address after four (R105, R204). -/
def offsToLabel (cond : Cond) (rd : Reg) (here label : Word) : Assembled :=
  let d := distance (here + 2#16) label
  if -6 ≤ d ∧ d ≤ 6 ∧ d % 2 = 0 then ⟨.offsShort cond rd (BitVec.ofInt 3 (d / 2)), 0⟩
  else ⟨.offsLong cond rd, label - (here + 4#16)⟩

/-- `j label` and `call label`: the label's absolute address in the long form (R105). -/
def jumpToLabel (cond : Cond) (label : Word) : Assembled := ⟨.jLong cond, label⟩
def callToLabel (cond : Cond) (label : Word) : Assembled := ⟨.callLong cond, label⟩

end Sys2Proof.Machine
end

