-- ==== Sys2Proof/Machine/ControlWord.lean ====
section
/-! DEFINITION. The micro-operation and its 24-bit control word (spec/48_microcode.md R225 to R234), and the ALU as the
control word drives it (R233 to R244). -/

namespace Sys2Proof.Machine

/-- A control word (R221, R229). -/
abbrev ControlWord := BitVec 24

/-- The eight bus sources, in the order of their codes (R225). -/
inductive BusSource where
  | zero | one | pc | reg | alu | mem | i | flags
deriving DecidableEq, Repr

/-- The register select (R230); code 3 is not defined. -/
inductive RegSelect where
  | rs | sp | rd
deriving DecidableEq, Repr

/-- The sixteen ALU operations, in the order of their codes (R234). `addOne` is the table's add+1. -/
inductive AluOp where
  | nand | adc | add | addOne | xor | lsl | lsr | asr
  | rol | rlc | ror | rrc | cbs | fd | rev | s3bf
deriving DecidableEq, Repr

/-- Bits 12 to 6: the three complements and the operation (R229, R233). -/
structure AluSelect where
  notA : Bool
  notB : Bool
  notD : Bool
  op   : AluOp
deriving DecidableEq, Repr

/-- The mnemonics that imply complement bits (R234). -/
def aluPlain (op : AluOp) : AluSelect := ⟨false, false, false, op⟩
def aluAnd : AluSelect := ⟨false, false, true, .nand⟩
def aluOr : AluSelect := ⟨true, true, false, .nand⟩
def aluNor : AluSelect := ⟨true, true, true, .nand⟩
def aluSbc : AluSelect := ⟨false, true, false, .adc⟩
def aluSub : AluSelect := ⟨false, true, false, .addOne⟩
def aluNotFd : AluSelect := ⟨false, false, true, .fd⟩

/-- A micro-operation, field by field as the control lines of R229. A field that is left out is zero, and all of them
zero is the end of the instruction (R232). -/
structure MicroOp where
  source : BusSource := .zero
  addrA  : Bool := false       -- `*a`
  pcInc  : Bool := false       -- `pc+`
  aDec   : Bool := false       -- bit 18
  aInc   : Bool := false       -- bit 17, with bit 18
  swab   : Bool := false
  ack    : Bool := false
  select : RegSelect := .rs
  alu    : AluSelect := ⟨false, false, false, .nand⟩
  toPc   : Bool := false
  toMem  : Bool := false
  toA    : Bool := false
  toB    : Bool := false
  toReg  : Bool := false
  wf     : Bool := false
deriving DecidableEq, Repr

/-! ### Codes -/

def BusSource.code (x : BusSource) : BitVec 3 :=
  match x with
  | .zero => 0 | .one => 1 | .pc => 2 | .reg => 3 | .alu => 4 | .mem => 5 | .i => 6 | .flags => 7

def BusSource.ofCode (n : BitVec 3) : BusSource :=
  match n.getLsbD 2, n.getLsbD 1, n.getLsbD 0 with
  | false, false, false => .zero
  | false, false, true  => .one
  | false, true,  false => .pc
  | false, true,  true  => .reg
  | true,  false, false => .alu
  | true,  false, true  => .mem
  | true,  true,  false => .i
  | true,  true,  true  => .flags

def RegSelect.code (x : RegSelect) : BitVec 2 :=
  match x with
  | .rs => 0 | .sp => 1 | .rd => 2

def RegSelect.ofCode (n : BitVec 2) : Option RegSelect :=
  match n.getLsbD 1, n.getLsbD 0 with
  | false, false => some .rs
  | false, true  => some .sp
  | true,  false => some .rd
  | true,  true  => none

def AluOp.code (x : AluOp) : BitVec 4 :=
  match x with
  | .nand => 0 | .adc => 1 | .add => 2 | .addOne => 3 | .xor => 4 | .lsl => 5 | .lsr => 6 | .asr => 7
  | .rol => 8 | .rlc => 9 | .ror => 10 | .rrc => 11 | .cbs => 12 | .fd => 13 | .rev => 14 | .s3bf => 15

def AluOp.ofCode (n : BitVec 4) : AluOp :=
  match n.getLsbD 3, n.getLsbD 2, n.getLsbD 1, n.getLsbD 0 with
  | false, false, false, false => .nand
  | false, false, false, true  => .adc
  | false, false, true,  false => .add
  | false, false, true,  true  => .addOne
  | false, true,  false, false => .xor
  | false, true,  false, true  => .lsl
  | false, true,  true,  false => .lsr
  | false, true,  true,  true  => .asr
  | true,  false, false, false => .rol
  | true,  false, false, true  => .rlc
  | true,  false, true,  false => .ror
  | true,  false, true,  true  => .rrc
  | true,  true,  false, false => .cbs
  | true,  true,  false, true  => .fd
  | true,  true,  true,  false => .rev
  | true,  true,  true,  true  => .s3bf

/-- The control word of a micro-operation: the fields of R229 from bit 23 down to bit 0. -/
def MicroOp.encode (u : MicroOp) : ControlWord :=
  u.source.code
    ++ BitVec.ofBool u.addrA ++ BitVec.ofBool u.pcInc ++ BitVec.ofBool u.aDec ++ BitVec.ofBool u.aInc
    ++ BitVec.ofBool u.swab ++ BitVec.ofBool u.ack
    ++ u.select.code
    ++ BitVec.ofBool u.alu.notA ++ BitVec.ofBool u.alu.notB ++ BitVec.ofBool u.alu.notD ++ u.alu.op.code
    ++ BitVec.ofBool u.toPc ++ BitVec.ofBool u.toMem ++ BitVec.ofBool u.toA ++ BitVec.ofBool u.toB
    ++ BitVec.ofBool u.toReg ++ BitVec.ofBool u.wf

/-- The micro-operation of a control word (R229); none for register select 3 (R230, U22). -/
def decodeControl (w : ControlWord) : Option MicroOp :=
  match RegSelect.ofCode (w.extractLsb' 13 2) with
  | none => none
  | some select => some
    { source := BusSource.ofCode (w.extractLsb' 21 3)
      addrA := w.getLsbD 20
      pcInc := w.getLsbD 19
      aDec := w.getLsbD 18
      aInc := w.getLsbD 17
      swab := w.getLsbD 16
      ack := w.getLsbD 15
      select := select
      alu :=
        { notA := w.getLsbD 12, notB := w.getLsbD 11, notD := w.getLsbD 10
          op := AluOp.ofCode (w.extractLsb' 6 4) }
      toPc := w.getLsbD 5
      toMem := w.getLsbD 4
      toA := w.getLsbD 3
      toB := w.getLsbD 2
      toReg := w.getLsbD 1
      wf := w.getLsbD 0 }

/-- None of the combinations that U23 names: pc+ with a write to PC, a+ or a- with a write to A, bit 17 without bit 18,
a memory source with a memory write, complements with cbs, rev or s3bf, and with fd other than the complement of the
result. Every micro-operation of a listing is so (`standard_admissible`); a word that is not is refused with all the
others that no listing holds (`MicroOp.standard`, N33). -/
def MicroOp.admissible (u : MicroOp) : Bool :=
  !(u.pcInc && u.toPc) && !(u.aDec && u.toA) && !(u.aInc && !u.aDec) && !(u.source == .mem && u.toMem) &&
  (match u.alu.op with
   | .cbs | .rev | .s3bf => !u.alu.notA && !u.alu.notB && !u.alu.notD
   | .fd => !u.alu.notA && !u.alu.notB
   | .nand | .adc | .add | .addOne | .xor | .lsl | .lsr | .asr | .rol | .rlc | .ror | .rrc => true)

/-! ### The ALU (R233 to R244) -/

/-- Complement when asked (R233). -/
def invertIf (b : Bool) (w : Word) : Word := if b then ~~~w else w

/-- What each operation computes of its (already complemented) inputs, before the complement of the result: the result,
and the C and V it would write (R236 to R244). -/
def aluCore (op : AluOp) (a b : Word) (f : Flags) : AluOut :=
  match op with
  | .nand   => keepingCV (~~~(a &&& b)) f
  | .adc    => adder a b f.c
  | .add    => adder a b false
  | .addOne => adder a b true
  | .xor    => keepingCV (a ^^^ b) f
  | .lsl    => lslAlu a b f
  | .lsr    => lsrAlu a b f
  | .asr    => asrAlu a b f
  | .rol    => rolAlu a b f
  | .rlc    => rlcAlu a b f
  | .ror    => rorAlu a b f
  | .rrc    => rrcAlu a b f
  | .cbs    => countOut (onesCount a) f
  | .fd     => keepingCV (floodDown a) f
  | .rev    => keepingCV (reverseBits a) f
  | .s3bf   => { value := (a.setWidth 3).signExtend 16, flags := Flags.ofNibble (b.setWidth 4) }

/-- N and Z as the operation computes them from the output, after the complement of the result (R235): N is 0 for cbs
and fd (R241, R242), and s3bf takes all four flags from B (R244). DESIGN CHOICE: the complemented `~fd` has N 0 too,
as R242 says of fd, and not bit 15 of its output, as R235 would have it; the spec leaves open which (N33). Nothing
writes it out: no listing has `wf` there, and every other word is refused (log 34). -/
def aluFlags (op : AluOp) (out : Word) (core : Flags) : Flags :=
  match op with
  | .s3bf => core
  | .cbs | .fd => { core with n := false, z := isZero out }
  | .nand | .adc | .add | .addOne | .xor | .lsl | .lsr | .asr | .rol | .rlc | .ror | .rrc | .rev =>
    { core with n := negative out, z := isZero out }

/-- The output of the ALU and the flags it computes (R233, R235). DESIGN CHOICE where no listing goes (N33, log 34): C
and V are of the complemented inputs and of the result before its own complement, and are not written out. -/
def aluCompute (sel : AluSelect) (a b : Word) (f : Flags) : AluOut :=
  let core := aluCore sel.op (invertIf sel.notA a) (invertIf sel.notB b) f
  let out := invertIf sel.notD core.value
  { value := out, flags := aluFlags sel.op out core.flags }

end Sys2Proof.Machine
end

