-- ==== Sys2Proof/Machine/Listings.lean ====
section
/-! DEFINITION. The standard microcode (spec/48_microcode.md R245 to R277): one listing per form, its non-empty
micro-operations from state 0 up. A state after a listing's last one holds `--`, the all-zero word (R232). -/

namespace Sys2Proof.Machine

/-! ### The recurring micro-operations, named by how the listings write them -/

/-- `sp -> a; pc+`, state 0 of every instruction listing (R222) -/
def opFirst : MicroOp := { source := .reg, select := .sp, toA := true, pcInc := true }
/-- `pc+` -/
def opPcInc : MicroOp := { pcInc := true }
/-- `1 -> a,b; pc+` -/
def opOnePcInc : MicroOp := { source := .one, toA := true, toB := true, pcInc := true }
/-- `0 -> b; a-|pc+` (PUSH prints it with a second semicolon, C5) -/
def opZeroBDecPcInc : MicroOp := { source := .zero, toB := true, aDec := true, pcInc := true }
/-- `rs -> a`, `rs -> b`, `rs -> a,b`, `rs -> pc` -/
def opRsToA : MicroOp := { source := .reg, select := .rs, toA := true }
def opRsToB : MicroOp := { source := .reg, select := .rs, toB := true }
def opRsToAB : MicroOp := { source := .reg, select := .rs, toA := true, toB := true }
def opRsToPc : MicroOp := { source := .reg, select := .rs, toPc := true }
/-- `rd -> a`, `sp -> a`, `i -> a`, `pc -> b`, `flags -> a` -/
def opRdToA : MicroOp := { source := .reg, select := .rd, toA := true }
def opSpToA : MicroOp := { source := .reg, select := .sp, toA := true }
def opIToA : MicroOp := { source := .i, toA := true }
def opPcToB : MicroOp := { source := .pc, toB := true }
def opFlagsToA : MicroOp := { source := .flags, toA := true }
/-- `0 -> a`, `0 -> b` -/
def opZeroToA : MicroOp := { source := .zero, toA := true }
def opZeroToB : MicroOp := { source := .zero, toB := true }
/-- `mem -> b; pc+` and `mem -> a; pc+|swab`: a long immediate, low byte to B, high byte to A -/
def opImmLoB : MicroOp := { source := .mem, toB := true, pcInc := true }
def opImmHiA : MicroOp := { source := .mem, toA := true, pcInc := true, swab := true }
/-- `mem -> a; pc+` and `mem -> b; pc+|swab`: the other way round, in J and CALL -/
def opImmLoA : MicroOp := { source := .mem, toA := true, pcInc := true }
def opImmHiB : MicroOp := { source := .mem, toB := true, pcInc := true, swab := true }
/-- `mem -> b; *a|a+` and `mem -> a; *a|swab`: a word from memory at A -/
def opLoadLoB : MicroOp := { source := .mem, toB := true, addrA := true, aDec := true, aInc := true }
def opLoadHiA : MicroOp := { source := .mem, toA := true, addrA := true, swab := true }
/-- `pc -> mem; *a|swab|a-` and `pc -> mem; *a` -/
def opPushPcHi : MicroOp := { source := .pc, toMem := true, addrA := true, swab := true, aDec := true }
def opPushPcLo : MicroOp := { source := .pc, toMem := true, addrA := true }
/-- `rs -> mem; *a|swab|a-` and `rs -> mem; *a` -/
def opPushRsHi : MicroOp := { source := .reg, select := .rs, toMem := true, addrA := true, swab := true, aDec := true }
def opPushRsLo : MicroOp := { source := .reg, select := .rs, toMem := true, addrA := true }
/-- `rs -> mem; *a|a+` and `rs -> mem; *a|swab` -/
def opStoreLo : MicroOp := { source := .reg, select := .rs, toMem := true, addrA := true, aDec := true, aInc := true }
def opStoreHi : MicroOp := { source := .reg, select := .rs, toMem := true, addrA := true, swab := true }
/-- `1 -> b; a+` -/
def opOneBIncA : MicroOp := { source := .one, toB := true, aDec := true, aInc := true }
/-- `alu -> a`, `alu -> b`, `alu -> a,b` with an operation -/
def opAluA (sel : AluSelect) : MicroOp := { source := .alu, alu := sel, toA := true }
def opAluB (sel : AluSelect) : MicroOp := { source := .alu, alu := sel, toB := true }
def opAluAB (sel : AluSelect) : MicroOp := { source := .alu, alu := sel, toA := true, toB := true }
/-- `alu -> rd`, `alu -> sp`, `alu -> pc` with an operation -/
def opAluRd (sel : AluSelect) : MicroOp := { source := .alu, alu := sel, select := .rd, toReg := true }
def opAluSp (sel : AluSelect) : MicroOp := { source := .alu, alu := sel, select := .sp, toReg := true }
def opAluPc (sel : AluSelect) : MicroOp := { source := .alu, alu := sel, toPc := true }
/-- `alu -> rd; op|wf` and `alu -> ∅; op|wf` -/
def opAluRdWf (sel : AluSelect) : MicroOp := { source := .alu, alu := sel, select := .rd, toReg := true, wf := true }
def opAluWf (sel : AluSelect) : MicroOp := { source := .alu, alu := sel, wf := true }

/-- `alu -> …; s3bf` -/
def selS3bf : AluSelect := aluPlain .s3bf

/-! ### The shapes of the listings -/

/-- ADC, ADD, AND, OR, SBC, SUB, XOR (R246 to R248, R264, R272, R275, R277): B the source, A `rd`. -/
def twoOperandReg (sel : AluSelect) : List MicroOp := [opFirst, opPcInc, opRsToB, opRdToA, opAluRdWf sel]
def twoOperandShort (sel : AluSelect) : List MicroOp :=
  [opFirst, opPcInc, opIToA, opAluB selS3bf, opRdToA, opAluRdWf sel]
def twoOperandLong (sel : AluSelect) : List MicroOp :=
  [opFirst, opPcInc, opImmLoB, opImmHiA, opAluB aluOr, opRdToA, opAluRdWf sel]

/-- ASR, LSL, LSR, RLC, ROL, ROR, RRC (R249, R259, R260, R268 to R271): the short count is I and 7. -/
def shiftReg (sel : AluSelect) : List MicroOp := [opFirst, opOnePcInc, opRsToB, opRdToA, opAluRdWf sel]
def shiftShort (sel : AluSelect) : List MicroOp :=
  [opFirst, opOnePcInc, opAluAB (aluPlain .addOne), opAluB (aluPlain .addOne), opIToA, opAluB aluAnd, opRdToA,
    opAluRdWf sel]
def shiftLong (sel : AluSelect) : List MicroOp :=
  [opFirst, opOnePcInc, opImmLoB, opImmHiA, opAluB aluOr, opRdToA, opAluRdWf sel]

/-- The interrupt entry (R245), mode 3 of the control store. -/
def interruptListing : List MicroOp :=
  [ { source := .reg, select := .sp, toA := true },
    { source := .zero, toB := true, aDec := true },
    opPushPcHi, opPushPcLo, opAluSp aluOr,
    { source := .one, toA := true, toB := true },
    opAluAB (aluPlain .lsl),
    { source := .alu, alu := aluPlain .lsl, toPc := true, ack := true } ]

/-- Mode 0, the register forms; for STI the Byte listing (R221, decision D19). Every opcode has one (R88). -/
def listingRegister (o : Opcode) : List MicroOp :=
  match o with
  | .ld => [opFirst, opPcInc, opRsToAB, opAluRd aluOr]                                        -- R257
  | .ldi => [opFirst, opPcInc, opRsToA, opLoadLoB, opLoadHiA, opAluRd aluOr]                  -- R258
  | .sti => [opFirst, opPcInc, opRdToA, opStoreLo]                                            -- R274
  | .neg => [opFirst, opPcInc, opRsToB, opZeroToA, opAluRdWf aluSub]                          -- R261
  | .sex =>                                                                                   -- R273
    [opFirst, opOnePcInc, opAluAB (aluPlain .lsl), opAluB (aluPlain .lsl), opRsToA, opAluA (aluPlain .lsl),
      opAluRdWf (aluPlain .asr)]
  | .offs => [opFirst, opPcInc, opRsToA, opPcToB, opAluRd (aluPlain .add)]                    -- R263
  | .cmp => [opFirst, opPcInc, opRsToB, opRdToA, opAluWf aluSub]                              -- R253
  | .xcg =>                                                                                   -- R276
    [opFirst, opPcInc, opRdToA, opRsToB, opAluA (aluPlain .xor),
      { source := .alu, alu := aluPlain .xor, select := .rs, toReg := true, toB := true },
      opAluRd (aluPlain .xor)]
  | .clz => [opFirst, opPcInc, opRsToA, opAluA aluNotFd, opAluRdWf (aluPlain .cbs)]           -- R252
  | .ctz =>                                                                                   -- R254
    [opFirst, opPcInc, opRsToA, opAluA (aluPlain .rev), opAluA aluNotFd, opAluRdWf (aluPlain .cbs)]
  | .cbs => [opFirst, opPcInc, opRsToA, opAluRdWf (aluPlain .cbs)]                            -- R251
  | .flg =>                                                                                   -- R255
    [opFirst, opPcInc, opRsToB, opFlagsToA, opAluA (aluPlain .rev), opAluRd (aluPlain .rev), opAluWf selS3bf]
  | .push => [opFirst, opZeroBDecPcInc, opPushRsHi, opPushRsLo, opAluSp aluOr]                -- R266
  | .pop =>                                                                                   -- R265
    [opFirst, opPcInc, opLoadLoB, opLoadHiA, opAluRd aluOr, opSpToA, opOneBIncA, opAluSp (aluPlain .add)]
  | .j => [opFirst, opPcInc, opRsToPc]                                                        -- R256
  | .call => [opFirst, opZeroBDecPcInc, opPushPcHi, opPushPcLo, opAluSp aluOr, opRsToPc]      -- R250
  | .andOp => twoOperandReg aluAnd                                                            -- R248
  | .orOp => twoOperandReg aluOr                                                              -- R264
  | .xor => twoOperandReg (aluPlain .xor)                                                     -- R277
  | .notOp => [opFirst, opPcInc, opRsToAB, opAluRdWf aluNor]                                  -- R262
  | .add => twoOperandReg (aluPlain .add)                                                     -- R247
  | .adc => twoOperandReg (aluPlain .adc)                                                     -- R246
  | .sub => twoOperandReg aluSub                                                              -- R275
  | .sbc => twoOperandReg aluSbc                                                              -- R272
  | .ror => shiftReg (aluPlain .ror)                                                          -- R270
  | .rol => shiftReg (aluPlain .rol)                                                          -- R269
  | .rrc => shiftReg (aluPlain .rrc)                                                          -- R271
  | .rlc => shiftReg (aluPlain .rlc)                                                          -- R268
  | .lsr => shiftReg (aluPlain .lsr)                                                          -- R260
  | .lsl => shiftReg (aluPlain .lsl)                                                          -- R259
  | .asr => shiftReg (aluPlain .asr)                                                          -- R249
  | .ret =>                                                                                   -- R267
    [opFirst, opPcInc, opLoadLoB, opLoadHiA, opAluPc aluOr, opSpToA, opOneBIncA, opAluSp (aluPlain .add)]

/-- The Word listing of STI, in the rows of modes 1 and 2 (R221, R274, decision D19, log 26). -/
def storeWordListing : List MicroOp := [opFirst, opPcInc, opRdToA, opStoreLo, opStoreHi]

/-- Mode 1, the short-immediate forms; none where the manual prints no listing (R96, R221). -/
def listingShort (o : Opcode) : Option (List MicroOp) :=
  match o with
  | .ld => some [opFirst, opPcInc, opIToA, opAluRd selS3bf]                                   -- R257
  | .sti => some storeWordListing                                                             -- R274
  | .neg => some [opFirst, opPcInc, opIToA, opAluB selS3bf, opZeroToA, opAluRdWf aluSub]      -- R261
  | .sex => some                                                                              -- R273
    [opFirst, opOnePcInc, opIToA, opAluA selS3bf, opZeroToB, opAluRdWf (aluPlain .asr)]
  | .offs => some                                                                             -- R263
    [opFirst, opPcInc, opIToA, opAluAB selS3bf, opAluA (aluPlain .add), opPcToB, opAluRd (aluPlain .add)]
  | .cmp => some [opFirst, opPcInc, opIToA, opAluB selS3bf, opRdToA, opAluWf aluSub]          -- R253
  | .clz => some [opFirst, opPcInc, opIToA, opAluA selS3bf, opAluA aluNotFd, opAluRdWf (aluPlain .cbs)] -- R252
  | .ctz => some                                                                              -- R254
    [opFirst, opPcInc, opIToA, opAluA selS3bf, opAluA (aluPlain .rev), opAluA aluNotFd, opAluRdWf (aluPlain .cbs)]
  | .cbs => some [opFirst, opPcInc, opIToA, opAluA selS3bf, opAluRdWf (aluPlain .cbs)]        -- R251
  | .andOp => some (twoOperandShort aluAnd)                                                   -- R248
  | .orOp => some (twoOperandShort aluOr)                                                     -- R264
  | .xor => some (twoOperandShort (aluPlain .xor))                                            -- R277
  | .notOp => some [opFirst, opPcInc, opIToA, opAluAB selS3bf, opAluRdWf aluNor]              -- R262
  | .add => some (twoOperandShort (aluPlain .add))                                            -- R247
  | .adc => some (twoOperandShort (aluPlain .adc))                                            -- R246
  | .sub => some (twoOperandShort aluSub)                                                     -- R275
  | .sbc => some (twoOperandShort aluSbc)                                                     -- R272
  | .ror => some (shiftShort (aluPlain .ror))                                                 -- R270
  | .rol => some (shiftShort (aluPlain .rol))                                                 -- R269
  | .rrc => some (shiftShort (aluPlain .rrc))                                                 -- R271
  | .rlc => some (shiftShort (aluPlain .rlc))                                                 -- R268
  | .lsr => some (shiftShort (aluPlain .lsr))                                                 -- R260
  | .lsl => some (shiftShort (aluPlain .lsl))                                                 -- R259
  | .asr => some (shiftShort (aluPlain .asr))                                                 -- R249
  | .ldi | .xcg | .flg | .push | .pop | .j | .call | .ret => none

/-- Mode 2, the long-immediate forms; none where the manual prints no listing (R96, R221). -/
def listingLong (o : Opcode) : Option (List MicroOp) :=
  match o with
  | .ld => some [opFirst, opPcInc, opImmLoB, opImmHiA, opAluRd aluOr]                         -- R257
  | .ldi => some                                                                              -- R258
    [opFirst, opPcInc, opImmLoB, opImmHiA, opAluA aluOr, opLoadLoB, opLoadHiA, opAluRd aluOr]
  | .sti => some storeWordListing                                                             -- R274
  | .neg => some [opFirst, opPcInc, opImmLoB, opImmHiA, opAluB aluOr, opZeroToA, opAluRdWf aluSub] -- R261
  | .sex => some                                                                              -- R273
    [opFirst, opOnePcInc, opAluAB (aluPlain .lsl), opAluB (aluPlain .lsl), opImmLoA,
      { source := .alu, alu := aluPlain .lsl, toA := true, pcInc := true }, opAluRdWf (aluPlain .asr)]
  | .offs => some [opFirst, opPcInc, opImmLoB, opImmHiA, opAluA aluOr, opPcToB, opAluRd (aluPlain .add)] -- R263
  | .cmp => some [opFirst, opPcInc, opImmLoB, opImmHiA, opAluB aluOr, opRdToA, opAluWf aluSub] -- R253
  | .clz => some                                                                              -- R252
    [opFirst, opPcInc, opImmLoB, opImmHiA, opAluA aluOr, opAluA aluNotFd, opAluRdWf (aluPlain .cbs)]
  | .ctz => some                                                                              -- R254
    [opFirst, opPcInc, opImmLoB, opImmHiA, opAluA aluOr, opAluA (aluPlain .rev), opAluA aluNotFd,
      opAluRdWf (aluPlain .cbs)]
  | .cbs => some [opFirst, opPcInc, opImmLoB, opImmHiA, opAluA aluOr, opAluRdWf (aluPlain .cbs)] -- R251
  | .flg => some                                                                              -- R255
    [opFirst, opPcInc, opImmLoB, { source := .flags, toA := true, pcInc := true }, opAluA (aluPlain .rev),
      opAluRd (aluPlain .rev), opAluWf selS3bf]
  | .j => some [opFirst, opPcInc, opImmLoA, opImmHiB, opAluPc aluOr]                          -- R256
  | .call => some                                                                             -- R250
    [opFirst, opZeroBDecPcInc, opPushPcHi, opPushPcLo, opAluSp aluOr, opImmLoA, opImmHiB, opAluPc aluOr]
  | .andOp => some (twoOperandLong aluAnd)                                                    -- R248
  | .orOp => some (twoOperandLong aluOr)                                                      -- R264
  | .xor => some (twoOperandLong (aluPlain .xor))                                             -- R277
  | .notOp => some [opFirst, opPcInc, opImmLoB, opImmHiA, opAluRdWf aluNor]                   -- R262
  | .add => some (twoOperandLong (aluPlain .add))                                             -- R247
  | .adc => some (twoOperandLong (aluPlain .adc))                                             -- R246
  | .sub => some (twoOperandLong aluSub)                                                      -- R275
  | .sbc => some (twoOperandLong aluSbc)                                                      -- R272
  | .ror => some (shiftLong (aluPlain .ror))                                                  -- R270
  | .rol => some (shiftLong (aluPlain .rol))                                                  -- R269
  | .rrc => some (shiftLong (aluPlain .rrc))                                                  -- R271
  | .rlc => some (shiftLong (aluPlain .rlc))                                                  -- R268
  | .lsr => some (shiftLong (aluPlain .lsr))                                                  -- R260
  | .lsl => some (shiftLong (aluPlain .lsl))                                                  -- R259
  | .asr => some (shiftLong (aluPlain .asr))                                                  -- R249
  | .xcg | .push | .pop | .ret => none

/-- The listing of an opcode in a mode. The one interrupt listing serves mode 3 whatever opcode I still holds
(R221, R245, log 27). -/
def listing (o : Opcode) (m : Mode) : Option (List MicroOp) :=
  match m with
  | .register => some (listingRegister o)
  | .shortImmediate => listingShort o
  | .longImmediate => listingLong o
  | .interrupt => some interruptListing

/-- One word of the control store (R221): none in a row for which the manual prints no listing. -/
def controlStore (o : Opcode) (m : Mode) (state : Nat) : Option ControlWord :=
  match listing o m with
  | none => none
  | some ops =>
    match ops[state]? with
    | some u => some u.encode
    | none => some 0

/-! ### What the standard microcode contains (R12) -/

/-- The 32 opcodes, in the order of their codes (R83), and the four modes (R87). -/
def opcodes : List Opcode :=
  [.ld, .ldi, .sti, .neg, .sex, .offs, .cmp, .xcg, .clz, .ctz, .cbs, .flg, .push, .pop, .j, .call,
    .andOp, .orOp, .xor, .notOp, .add, .adc, .sub, .sbc, .ror, .rol, .rrc, .rlc, .lsr, .lsl, .asr, .ret]
def modes : List Mode := [.register, .shortImmediate, .longImmediate, .interrupt]

/-- The standard microcode contains the micro-operation: it stands in some listing (R245 to R277). -/
def MicroOp.standard (u : MicroOp) : Bool :=
  opcodes.any fun o => modes.any fun m => (listing o m).any fun ops => ops.contains u

/-- The number of non-empty micro-operations of a form (R321). -/
def microOpCount (o : Opcode) (m : Mode) : Option Nat :=
  match listing o m with
  | none => none
  | some ops => some ops.length

end Sys2Proof.Machine
end

