-- ==== Sys2Proof/Machine/Micro.lean ====
section
/-! DEFINITION. The micro-level machine (spec/48_microcode.md R220 to R232): it runs the standard microcode, one control
word a step, on the same state. An instruction begins and ends with the state counter at 0. The condition field is not
tested here (R278, log 25). -/

namespace Sys2Proof.Machine

/-- The register the register select names (R230). -/
def selectedReg (sel : RegSelect) (s : State) : Reg :=
  match sel with
  | .rs => Reg.ofCode (sourceField s.hid.i)
  | .sp => .sp
  | .rd => Reg.ofCode (rdField s.hid.i)

/-- The address memory is accessed at (R228). -/
def memAddress (u : MicroOp) (s : State) : Word := if u.addrA then s.hid.a else s.pc

/-- The output of the ALU on the current A, B and flags (R233). -/
def aluOutput (u : MicroOp) (s : State) : AluOut := aluCompute u.alu s.hid.a s.hid.b s.flags

/-- What the bus source puts on the bus (R225). -/
def busSource (u : MicroOp) (s : State) : Result Word :=
  match u.source with
  | .zero => .next 0
  | .one => .next 1
  | .pc => .next s.pc
  | .reg => .next (readReg (selectedReg u.select s) s)
  | .alu => .next (aluOutput u s).value
  | .mem => andThen (readByte (memAddress u s) s) fun b => .next (b.setWidth 16)
  | .i => .next s.hid.i
  | .flags => .next s.flags.toWord

/-- The byte swap of the bus (R227). -/
def swapBytes (w : Word) : Word := lowByte w ++ highByte w
def busValue (u : MicroOp) (w : Word) : Word := if u.swab then swapBytes w else w

/-- A after the micro-operation: written, or counted down or up after its use as an address (R228). -/
def nextA (u : MicroOp) (bus : Word) (s : State) : Word :=
  if u.toA then bus
  else if u.aDec then (if u.aInc then s.hid.a + 1#16 else s.hid.a - 1#16)
  else s.hid.a

/-- PC after the micro-operation: written, or incremented after its use (R228). -/
def nextPc (u : MicroOp) (bus : Word) (s : State) : Word :=
  if u.toPc then bus else if u.pcInc then s.pc + 1#16 else s.pc

/-- Every destination but memory, all from the state before the micro-operation (R226, R228, R235), and the counter
moved on, modulo 8 (R221). -/
def writeBack (u : MicroOp) (bus : Word) (s : State) (stored : Memory) : State :=
  { s with
    mem := stored
    regs := if u.toReg then s.regs.set (selectedReg u.select s) bus else s.regs
    pc := nextPc u bus s
    flags := if u.wf then (aluOutput u s).flags else s.flags
    pending := s.pending && !u.ack
    hid := { s.hid with
      a := nextA u bus s
      b := if u.toB then bus else s.hid.b
      counter := s.hid.counter + 1 } }

/-- One micro-operation (R225 to R228). A memory write stores the low byte of the bus (R226). -/
def perform (u : MicroOp) (s : State) : Result State :=
  andThen (busSource u s) fun w =>
  let bus := busValue u w
  if u.toMem then
    andThen (writeByte (memAddress u s) (lowByte bus) s) fun s1 => .next (writeBack u bus s s1.mem)
  else .next (writeBack u bus s s.mem)

/-- One control word. All zeros ends the instruction (R232); a word the standard microcode does not contain is refused
(R12, N33, U22 to U24, log 27). -/
def runWord (w : ControlWord) (s : State) : Result State :=
  if w = 0 then .next { s with hid := { s.hid with counter := 0 } }
  else
    match decodeControl w with
    | none => .refused .undefinedMicroOp
    | some u => if u.standard then perform u s else .refused .undefinedMicroOp

/-- The control word the store holds for the latched opcode, the mode and the counter (R221). -/
def runStored (o : Opcode) (m : Mode) (state : Nat) (s : State) : Result State :=
  match controlStore o m state with
  | none => .refused .undefinedMicroOp
  | some w => runWord w s

/-- The byte at PC latched as the high byte of I, before the `pc+` of state 0 takes effect (R223, R224, log 24). -/
def latchHigh (s : State) : Result State :=
  andThen (readByte s.pc s) fun b =>
  .next { s with hid := { s.hid with i := wordOfBytes b (lowByte s.hid.i), mode := .register } }

/-- The byte at PC latched as the low byte of I in state 1, which completes the word and selects the mode (R87, R223). -/
def latchLow (s : State) : Result State :=
  andThen (readByte s.pc s) fun b =>
  let w := wordOfBytes (highByte s.hid.i) b
  .next { s with hid := { s.hid with i := w, mode := modeSelect w } }

/-- State 0: a pending request selects mode 3 and nothing is fetched (R87, R222, R282); otherwise the opcode byte is
latched and the word of state 0 cannot depend on it (R222). -/
def microState0 (s : State) : Result State :=
  if s.pending then
    runStored (opcodeOf s.hid.i) .interrupt 0 { s with hid := { s.hid with mode := .interrupt } }
  else andThen (latchHigh s) fun s1 => runWord opFirst.encode s1

/-- State 1: the word depends on the opcode only, so the row of mode 0, which every opcode has, gives it (R222). -/
def microState1 (s : State) : Result State :=
  if s.hid.mode = .interrupt then runStored (opcodeOf s.hid.i) .interrupt 1 s
  else andThen (latchLow s) fun s1 => runStored (opcodeOf s1.hid.i) .register 1 s1

/-- One micro step (R220 to R223, R232). -/
def microStep (s : State) : Result State :=
  match s.hid.counter.toNat with
  | 0 => microState0 s
  | 1 => microState1 s
  | n => runStored (opcodeOf s.hid.i) s.hid.mode n s

/-- Micro steps until the counter is back at 0, at most `fuel` of them. -/
def microRun (fuel : Nat) (s : State) : Result State :=
  match fuel with
  | 0 => .next s
  | n + 1 => andThen (microStep s) fun t => if t.hid.counter = 0 then .next t else microRun n t

/-- One whole instruction, or one interrupt entry, at the micro level: at most eight micro-operations (R220, R232). -/
def microInstruction (s : State) : Result State := microRun 8 s

end Sys2Proof.Machine
end

