-- ==== Sys2Proof/Safety.lean ====
section
/-! DEFINITION. The terms claims are stated in: what a program can see, which reads stop, what an instruction leaves alone, the flags as
the rules describe them, the shapes of a statement about the forms of an instruction, the invariant of an instruction
boundary, when a stack can take a push, and when a run has ended. -/

namespace Sys2Proof.Machine

/-! ### What a program can see (R20, R37, R40) -/

/-- The state without its hidden registers and without the model's own counter. -/
structure Visible where
  regs     : RegFile
  pc       : Word
  flags    : Flags
  pending  : Bool
  mem      : Memory
  platform : Platform
deriving DecidableEq, Repr

def visible (s : State) : Visible :=
  { regs := s.regs, pc := s.pc, flags := s.flags, pending := s.pending, mem := s.mem, platform := s.platform }

/-- Two outcomes a program cannot tell apart: states that look the same, or the same stop. -/
def sameOutcome (x y : Result State) : Prop :=
  match x, y with
  | .next s, .next t => visible s = visible t
  | .fault e, .fault f => e = f
  | .refused e, .refused f => e = f
  | _, _ => False

/-! ### Reads the spec refuses -/

/-- A byte read that R58 refuses, and the stop that it is (decision D4, logs 5, 6): nothing stands at the address, or a
populated address holds no value. -/
def readRefused (s : State) (a : Word) (f : Fault) : Prop :=
  (kindAt s a = .absent ∧ f = .badAccess a) ∨
  (kindAt s a ≠ .absent ∧ byteAt s a = none ∧ f = .uninitialised a)

/-- A word read that stops, given which byte reads do: at its first byte, or at its second when the first is read
(R54, R61). -/
def wordRefused (refused : Word → Fault → Prop) (a : Word) (f : Fault) : Prop :=
  refused a f ∨ ((∀ g : Fault, ¬refused a g) ∧ refused (a + 1#16) f)

/-! ### What stays as it was -/

/-- Every byte of memory reads as before, a byte that stops the reader included. -/
def sameMemory (s t : State) : Prop := ∀ a : Word, readByte a t = readByte a s

/-- Every byte of memory outside the listed addresses reads as before. -/
def sameMemoryExcept (stored : List Word) (s t : State) : Prop :=
  ∀ a : Word, a ∉ stored → readByte a t = readByte a s

/-- Every general register outside the listed ones holds what it held. -/
def sameRegsExcept (written : List Reg) (s t : State) : Prop :=
  ∀ r : Reg, r ∉ written → readReg r t = readReg r s

/-- The rest of the state that no instruction writes: the pending request (R37), the parameters (R40), the latched
instruction word, the counter and the mode select (R36), and the model's counter of free values. The hidden registers A
and B are the microcode's to change (R39). -/
def sameBeyond (s t : State) : Prop :=
  t.pending = s.pending ∧ t.platform = s.platform ∧ t.freeCtr = s.freeCtr ∧
  t.hid.i = s.hid.i ∧ t.hid.counter = s.hid.counter ∧ t.hid.mode = s.hid.mode

/-! ### Flags as the rules describe them -/

/-- N and Z of a 16-bit result (R30, R141). -/
def signAndZero (result : Word) (f : Flags) : Prop :=
  (f.n = true ↔ 0x8000 ≤ result.toNat) ∧ (f.z = true ↔ result = 0)

/-- A signed value that sixteen bits cannot hold (R30, R140). -/
def outOfRange (v : Int) : Prop := v < -32768 ∨ 32767 < v

/-- The four flags of an addition of `x`, `y` and a carry (R138 to R141). -/
def flagsOfSum (x y : Word) (carry : Bool) (result : Word) (f : Flags) : Prop :=
  (f.c = true ↔ 2 ^ 16 ≤ x.toNat + y.toNat + carry.toNat) ∧
  (f.v = true ↔ outOfRange (x.toInt + y.toInt + carry.toNat)) ∧ signAndZero result f

/-- The four flags of a subtraction of `y` and a borrow from `x`: C is 1 when there is no borrow (R30, R139, R140). -/
def flagsOfDifference (x y : Word) (borrow : Bool) (result : Word) (f : Flags) : Prop :=
  (f.c = true ↔ y.toNat + borrow.toNat ≤ x.toNat) ∧
  (f.v = true ↔ outOfRange (x.toInt - y.toInt - borrow.toNat)) ∧ signAndZero result f

/-! ### The shapes of a statement about an instruction

`exec` starts in the state the two fetch reads leave, so its `s.pc` is the address after the instruction word. -/

/-- `rd` holds the result and nothing else changes, flags and pc apart. -/
def wroteReg (rd : Reg) (result : Word) (s t : State) : Prop :=
  readReg rd t = result ∧ sameRegsExcept [rd] s t ∧ sameMemory s t ∧ sameBeyond s t

/-- The five fields of the one format as a word (R81). -/
def figure (opcode : BitVec 5) (cond : Cond) (m : BitVec 1) (rd source : BitVec 3) : Word :=
  opcode ++ cond.code ++ m ++ rd ++ source

/-- The register form and the short form, each with its encoding and, when its condition holds, a next state; `after`
says what the next state is, of the destination, the source operand, the address of the next instruction, and the
states before and after. -/
def shortForms (opcode : BitVec 5) (reg : Cond → Reg → Reg → Instr) (short : Cond → Reg → BitVec 3 → Instr)
    (shortValue : BitVec 3 → Word) (after : Reg → Word → Word → State → State → Prop) : Prop :=
  (∀ (cond : Cond) (rd rs : Reg), encodeWord (reg cond rd rs) = figure opcode cond 0 rd.code rs.code ∧
    ∀ s : State, condHolds cond s.flags = true →
      ∃ t : State, exec (reg cond rd rs) s = .next t ∧ after rd (readReg rs s) s.pc s t) ∧
  (∀ (cond : Cond) (rd : Reg) (imm : BitVec 3), (short cond rd imm).wellFormed = true →
    encodeWord (short cond rd imm) = figure opcode cond 1 rd.code imm ∧
    ∀ s : State, condHolds cond s.flags = true →
      ∃ t : State, exec (short cond rd imm) s = .next t ∧ after rd (shortValue imm) s.pc s t)

/-- The long form: the two bytes of its immediate are read at pc, the low one first, and pc moves over them. -/
def longForm (opcode : BitVec 5) (marker : BitVec 3) (long : Cond → Reg → Instr)
    (after : Reg → Word → Word → State → State → Prop) : Prop :=
  ∀ (cond : Cond) (rd : Reg), encodeWord (long cond rd) = figure opcode cond 1 rd.code marker ∧
    ∀ (s : State) (lo hi : Byte), condHolds cond s.flags = true →
      readByte s.pc s = .next lo → readByte (s.pc + 1#16) s = .next hi →
      ∃ t : State, exec (long cond rd) s = .next t ∧ after rd (immOfBytes lo hi) (s.pc + 2#16) s t

/-- The three forms of an instruction with a signed source (R88, R89, R91). -/
def signedForms (opcode : BitVec 5) (reg : Cond → Reg → Reg → Instr) (short : Cond → Reg → BitVec 3 → Instr)
    (long : Cond → Reg → Instr) (after : Reg → Word → Word → State → State → Prop) : Prop :=
  shortForms opcode reg short (fun imm => imm.signExtend 16) after ∧ longForm opcode 0b100#3 long after

/-- The three forms of a shift or rotate, whose source is a count (R88, R90, R91, R177). -/
def countForms (opcode : BitVec 5) (reg : Cond → Reg → Reg → Instr) (short : Cond → Reg → BitVec 3 → Instr)
    (long : Cond → Reg → Instr) (after : Reg → Word → Word → State → State → Prop) : Prop :=
  shortForms opcode reg short (fun imm => imm.setWidth 16) after ∧ longForm opcode 0b000#3 long after

/-- The microcode of these opcodes does what `step` does, for every form, every operand and every memory, when the
condition holds. CALL's printed listing pushes the address of its immediate in the long form (R202, C3), so there the
parameter has that value. -/
def microcodeAgrees (opcodes : List Opcode) : Prop :=
  ∀ (s s1 : State) (i : Instr), i.fields.opcode ∈ opcodes → s.hid.counter = 0 → s.pending = false →
    fetch s = .next (i, s1) → i.isReserved = false → condHolds i.cond s.flags = true →
    (i.fields.opcode = .call → i.isLong = true → s.platform.callImmReturn = .immediateAddress) →
    microInstruction s = step s

/-! ### The instruction boundary -/

/-- What holds at every instruction boundary: memory in its canonical form (R50), the state counter at 0 (R37, R232),
and the mode select either that of the latched instruction word or the interrupt's (R87). -/
def State.atBoundary (s : State) : Prop :=
  s.mem.wf = true ∧ s.hid.counter = 0 ∧ (s.hid.mode = modeSelect s.hid.i ∨ s.hid.mode = .interrupt)

/-- A push would write RAM (R57, R316): the two bytes below SP are writable. -/
def State.stackWritable (s : State) : Prop :=
  kindAt s (readReg .sp s - 1#16) = .ram ∧ kindAt s (readReg .sp s - 2#16) = .ram

/-! ### A run -/

/-- Where an unconditional jump goes, in the state the fetch leaves; nothing for any other instruction, or where the
immediate of the long form cannot be read. -/
def jumpTarget (i : Instr) (s : State) : Option Word :=
  match i with
  | .jReg cond rs => if cond = .always then some (readReg rs s) else none
  | .jLong cond =>
    if cond = .always then
      match readWord s.pc s with
      | .next target => some target
      | .fault _ | .refused _ => none
    else none
  | _ => none

/-- The machine has ended (R319, decision D10, log 30): no request is pending and the instruction at pc is an
unconditional jump to its own address, in the register form or in the long form. -/
def State.ended (s : State) : Bool :=
  match s.pending, fetch s with
  | false, .next (i, s1) => jumpTarget i s1 == some s.pc
  | _, _ => false

/-- Steps until the run has ended, at most `fuel` of them. -/
def runToEnd (fuel : Nat) (s : State) : Result State :=
  match fuel with
  | 0 => .next s
  | n + 1 => if s.ended then .next s else andThen (step s) (runToEnd n)

end Sys2Proof.Machine
end

