-- ==== Sys2Proof/Certificates/Slice0/Obligations.lean ====
section
/-! DEFINITION. The statements for the provers. Each docstring names the rules of spec/ it comes from; `exec` starts in
the state the two fetch reads leave, so its `s.pc` is `I0 + 2`. -/

open Sys2Proof Sys2Proof.Machine

/-! ## Encoding -/

/-- R80 to R98: decoding the bytes of a well-formed instruction gives it back, with its long immediate and whatever
bytes follow. The register numbers are the spec's decision D11 (log 22). -/
def Obligations.DecodeEncode : Prop :=
  ∀ (i : Instr) (imm : Word) (rest : List Byte), i.wellFormed = true →
    decode (encode i imm ++ rest) = .ok ⟨i, if i.isLong then some imm else none, rest⟩

/-- R83, R95, R96: every word decodes to a well-formed instruction, whose own word differs from it in don't-care bits
only (decision D12, log 17): the destination field of J, CALL, PUSH and RET, and the source field of POP and RET. -/
def Obligations.EncodeDecode : Prop :=
  ∀ w : Word, (decodeWord w).wellFormed = true ∧
    encodeWord (decodeWord w) =
      match decodeWord w with
      | .push _ _ | .jReg _ _ | .jLong _ | .callReg _ _ | .callLong _ => w &&& 0xFFC7#16
      | .pop _ _ => w &&& 0xFFF8#16
      | .ret _ => w &&& 0xFFC0#16
      | _ => w

/-- R96, the spec's decision D5 (log 16): which words are reserved, and that executing a reserved form is refused,
whatever its condition says. -/
def Obligations.ReservedForms : Prop :=
  (∀ w : Word, (decodeWord w).isReserved = true ↔
    modeBit w = true ∧
      ((opcodeField w ∈ [0x01#5, 0x0B#5, 0x0E#5, 0x0F#5] ∧ sourceField w ≠ 0b100#3) ∨
       opcodeField w ∈ [0x07#5, 0x0C#5, 0x0D#5, 0x1F#5])) ∧
  (∀ (cond : Cond) (rd : Reg) (src : BitVec 3) (s : State),
    exec (.ldiReserved cond rd src) s = .refused .reservedForm ∧
    exec (.xcgReserved cond rd src) s = .refused .reservedForm ∧
    exec (.flgReserved cond rd src) s = .refused .reservedForm ∧
    exec (.pushReserved cond rd src) s = .refused .reservedForm ∧
    exec (.popReserved cond rd src) s = .refused .reservedForm ∧
    exec (.jReserved cond rd src) s = .refused .reservedForm ∧
    exec (.callReserved cond rd src) s = .refused .reservedForm ∧
    exec (.retReserved cond rd src) s = .refused .reservedForm)

/-- R98, which the spec derives: how a decoder tells the length, on the bits of the word. -/
def Obligations.LengthRule : Prop :=
  ∀ w : Word, (decodeWord w).isLong = true ↔
    w.getLsbD 6 = true ∧ opcodeField w ≠ 0x02#5 ∧
    ((0x18#5 ≤ opcodeField w ∧ opcodeField w ≤ 0x1E#5 ∧ sourceField w = 0b000#3) ∨
     (¬(0x18#5 ≤ opcodeField w ∧ opcodeField w ≤ 0x1E#5) ∧ sourceField w = 0b100#3)) ∧
    opcodeField w ∉ [0x07#5, 0x0C#5, 0x0D#5, 0x1F#5]

/-- R109, which the spec derives: the worked encodings, both ways. -/
def Obligations.WorkedEncodings : Prop :=
  ∀ x ∈ ([ (Instr.ldShort .always .r0 0, 0, [0x00, 0x40]),
           (.addReg .always .r0 .r1, 0, [0xA0, 0x01]),
           (.addShort .c .r0 1, 0, [0xA0, 0xC1]),
           (.offsShort .always .r6 0b101, 0, [0x28, 0x75]),
           (.ldLong .always .sp, 0x8000, [0x00, 0x7C, 0x00, 0x80]),
           (.lslShort .always .r0 4, 0, [0xE8, 0x44]),
           (.lslLong .always .r0, 16, [0xE8, 0x40, 0x10, 0x00]),
           (.stiByte .always .r1 .r0, 0, [0x10, 0x08]),
           (.stiWord .always .r1 .r4, 0, [0x10, 0x4C]),
           (.jLong .nz, 0x000E, [0x76, 0x44, 0x0E, 0x00]),
           (.ret .always, 0, [0xF8, 0x00]) ] : List (Instr × Word × List Byte)),
    encode x.1 x.2.1 = x.2.2 ∧ decode x.2.2 = .ok ⟨x.1, if x.1.isLong then some x.2.1 else none, []⟩

/-! ## The step -/

/-- R100: when no request is pending and the two bytes at pc decode to `i`, the step is `exec i` in the state the
fetch leaves, pc past the word and nothing else that a program can see changed; and `i` is well formed. What the
hidden registers hold there is the model's reading: A the stack pointer, the word in I and its mode selected (logs 15,
24, DEDUCED), and the counter 0 whatever it was (log 32, DESIGN CHOICE). -/
def Obligations.StepRunsDecoded : Prop :=
  ∀ (s : State) (first second : Byte) (i : Instr), s.pending = false →
    readByte s.pc s = .next first → readByte (s.pc + 1#16) s = .next second →
    decodeWord (wordOfBytes first second) = i →
    i.wellFormed = true ∧
    step s = exec i { s with pc := s.pc + 2#16,
                             hid := { a := readReg .sp s, b := s.hid.b, i := wordOfBytes first second, counter := 0,
                                      mode := modeSelect (wordOfBytes first second) } }

/-- R87: the mode select after a step: the interrupt's when a request was pending on entering state 0, otherwise that
of the instruction word. That I holds the word, and that I and the mode select keep their values when the step ends,
are the model's reading (logs 24, 15, DEDUCED). -/
def Obligations.ModeSelectRule : Prop :=
  ∀ s t : State, step s = .next t →
    (s.pending = true → t.hid.mode = .interrupt) ∧
    (s.pending = false →
      ∃ first second : Byte, readByte s.pc s = .next first ∧ readByte (s.pc + 1#16) s = .next second ∧
        t.hid.i = first ++ second ∧
        t.hid.mode =
          if t.hid.i.getLsbD 6 = false then .register
          else if (0x18#5 ≤ opcodeField t.hid.i ∧ opcodeField t.hid.i ≤ 0x1E#5) ∧ sourceField t.hid.i = 0b000#3 then
            .longImmediate
          else if ¬(0x18#5 ≤ opcodeField t.hid.i ∧ opcodeField t.hid.i ≤ 0x1E#5) ∧ sourceField t.hid.i = 0b100#3 then
            .longImmediate
          else .shortImmediate)

/-- R283, R285 to R287, R290: a pending request wins over the instruction at pc, whatever stands there; entry saves pc
on the stack, high byte at the higher address, moves SP down by 2, goes to address 8, clears the request and changes
nothing else that a program can see. -/
def Obligations.InterruptEntryEffect : Prop :=
  ∀ s : State, s.pending = true → kindAt s (readReg .sp s - 1#16) = .ram → kindAt s (readReg .sp s - 2#16) = .ram →
    ∃ t : State, step s = .next t ∧
      readByte (readReg .sp s - 1#16) t = .next (highByte s.pc) ∧
      readByte (readReg .sp s - 2#16) t = .next (lowByte s.pc) ∧
      sameMemoryExcept [readReg .sp s - 1#16, readReg .sp s - 2#16] s t ∧
      readReg .sp t = readReg .sp s - 2#16 ∧ sameRegsExcept [.sp] s t ∧
      t.pc = 0x0008#16 ∧ t.pending = false ∧ t.flags = s.flags ∧
      t.platform = s.platform ∧ t.freeCtr = s.freeCtr ∧ t.hid.i = s.hid.i ∧ t.hid.counter = 0

/-- R58 (decision D4, logs 6, 7), R55: a byte store stops where the address is not RAM, after the bytes stored before
it: STI at the address of the destination register and then at the next one, every push at SP-1 and then at SP-2. -/
def Obligations.StoresStopOutsideRam : Prop :=
  ∀ s : State,
    (∀ (cond : Cond) (rd rs : Reg), condHolds cond s.flags = true →
      (kindAt s (readReg rd s) ≠ .ram →
        exec (.stiByte cond rd rs) s = .fault (.badAccess (readReg rd s)) ∧
        exec (.stiWord cond rd rs) s = .fault (.badAccess (readReg rd s))) ∧
      (kindAt s (readReg rd s) = .ram → kindAt s (readReg rd s + 1#16) ≠ .ram →
        exec (.stiWord cond rd rs) s = .fault (.badAccess (readReg rd s + 1#16)))) ∧
    (∀ a : Word,
      (kindAt s (readReg .sp s - 1#16) ≠ .ram ∧ a = readReg .sp s - 1#16) ∨
      (kindAt s (readReg .sp s - 1#16) = .ram ∧ kindAt s (readReg .sp s - 2#16) ≠ .ram ∧ a = readReg .sp s - 2#16) →
      (∀ (cond : Cond) (rs : Reg), condHolds cond s.flags = true →
        exec (.push cond rs) s = .fault (.badAccess a) ∧
        exec (.callReg cond rs) s = .fault (.badAccess a) ∧
        exec (.callLong cond) s = .fault (.badAccess a)) ∧
      (s.pending = true → step s = .fault (.badAccess a)))

/-! ## Conditions -/

/-- R84: the sixteen codes and their tests; code 1xxx is the negation of code 0xxx. -/
def Obligations.ConditionTable : Prop :=
  (∀ f : Flags,
    [0, 1, 2, 3, 4, 5, 6, 7].map (fun k => condHolds (Cond.ofCode k) f) =
      [true, f.c, f.n, f.v, f.z, !f.c || f.z, f.n != f.v, (f.n != f.v) || f.z]) ∧
  (∀ (k : BitVec 3) (f : Flags), condHolds (Cond.ofCode (1#1 ++ k)) f = !condHolds (Cond.ofCode (0#1 ++ k)) f)

/-- R84, R133: after CMP the conditions compare the destination `a` with the source `b`, signed and unsigned, in every
form (the adder's C and V are the spec's decision D15, log 20). -/
def Obligations.CompareConditions : Prop :=
  signedForms 0b00110#5 .cmpReg .cmpShort .cmpLong fun rd b _ s t =>
    let a := readReg rd s
    (condHolds .c t.flags = true ↔ b.toNat ≤ a.toNat) ∧ (condHolds .cc t.flags = true ↔ a.toNat < b.toNat) ∧
    (condHolds .z t.flags = true ↔ a = b) ∧ (condHolds .nz t.flags = true ↔ a ≠ b) ∧
    (condHolds .ls t.flags = true ↔ a.toNat ≤ b.toNat) ∧ (condHolds .hi t.flags = true ↔ b.toNat < a.toNat) ∧
    (condHolds .lt t.flags = true ↔ a.toInt < b.toInt) ∧ (condHolds .ge t.flags = true ↔ b.toInt ≤ a.toInt) ∧
    (condHolds .le t.flags = true ↔ a.toInt ≤ b.toInt) ∧ (condHolds .gt t.flags = true ↔ b.toInt < a.toInt)

/-- R85, decision D1, for both values of COND_FALSE_LONG_ADVANCE (log 8): an instruction whose condition fails is
passed over without any effect beyond pc, and reads nothing, so it completes in every state. -/
def Obligations.FailedCondition : Prop :=
  ∀ (i : Instr) (s : State), i.isReserved = false → condHolds i.cond s.flags = false →
    ∃ t : State, exec i s = .next t ∧
      t.pc = (if i.isLong then
                (match s.platform.falseLongAdvance with
                 | .four => s.pc + 2#16
                 | .two => s.pc)
              else s.pc) ∧
      t.regs = s.regs ∧ t.flags = s.flags ∧ sameMemory s t ∧ t.pending = s.pending ∧ t.platform = s.platform ∧
      t.hid.i = s.hid.i ∧ t.hid.counter = s.hid.counter ∧ t.hid.mode = s.hid.mode

/-- R58 (decision D4, logs 5, 6), R55: a read stops exactly where nothing stands at the address or a populated address
holds no value, and never gives a made-up byte. So stop, at the first such byte of the word they read: the fetch; each
long form at its immediate (SEX and FLG at its low byte, the only one they read; CALL after a push that succeeds,
unless the push wrote that byte); LDI at its address; POP and RET at SP. -/
def Obligations.UnreadableBytesStop : Prop :=
  ∀ s : State,
    (∀ (a : Word) (f : Fault), readByte a s = .fault f ↔ readRefused s a f) ∧
    (∀ f : Fault, s.pending = false → wordRefused (readRefused s) s.pc f → step s = .fault f) ∧
    (∀ (i : Instr) (f : Fault), i.isLong = true → condHolds i.cond s.flags = true →
      (i.fields.opcode ∉ [.call, .sex, .flg] → wordRefused (readRefused s) s.pc f → exec i s = .fault f) ∧
      (i.fields.opcode ∈ [.sex, .flg] → readRefused s s.pc f → exec i s = .fault f)) ∧
    (∀ (cond : Cond) (f : Fault), condHolds cond s.flags = true →
      kindAt s (readReg .sp s - 1#16) = .ram → kindAt s (readReg .sp s - 2#16) = .ram →
      wordRefused (fun a g => a ≠ readReg .sp s - 1#16 ∧ a ≠ readReg .sp s - 2#16 ∧ readRefused s a g) s.pc f →
      exec (.callLong cond) s = .fault f) ∧
    (∀ (cond : Cond) (f : Fault), condHolds cond s.flags = true →
      (∀ rd rs : Reg, wordRefused (readRefused s) (readReg rs s) f → exec (.ldiReg cond rd rs) s = .fault f) ∧
      (∀ (rd : Reg) (lo hi : Byte), readByte s.pc s = .next lo → readByte (s.pc + 1#16) s = .next hi →
        wordRefused (readRefused s) (hi ++ lo) f → exec (.ldiLong cond rd) s = .fault f) ∧
      (wordRefused (readRefused s) (readReg .sp s) f →
        (∀ rd : Reg, exec (.pop cond rd) s = .fault f) ∧ exec (.ret cond) s = .fault f))

/-! ## Loads and stores -/

/-- R120: when its condition holds, each form of LD completes with the source operand in the destination, the flags,
every other register and memory as they were, and pc after the instruction. -/
def Obligations.LdResult : Prop :=
  signedForms 0b00000#5 .ldReg .ldShort .ldLong fun rd src next s t =>
    wroteReg rd src s t ∧ t.flags = s.flags ∧ t.pc = next

/-- R121: when its condition holds and its bytes are readable, each form of LDI completes with the word at the source
address in the destination, low byte from the lower address, the address read before the destination is written;
flags, memory and other registers unchanged, pc after the instruction. -/
def Obligations.LdiResult : Prop :=
  ∀ (cond : Cond) (rd rs : Reg) (s : State), condHolds cond s.flags = true →
    encodeWord (.ldiReg cond rd rs) = figure 0b00001#5 cond 0 rd.code rs.code ∧
    encodeWord (.ldiLong cond rd) = figure 0b00001#5 cond 1 rd.code 0b100#3 ∧
    (∀ lo hi : Byte, readByte (readReg rs s) s = .next lo → readByte (readReg rs s + 1#16) s = .next hi →
      ∃ t : State, exec (.ldiReg cond rd rs) s = .next t ∧
        wroteReg rd (hi ++ lo) s t ∧ t.flags = s.flags ∧ t.pc = s.pc) ∧
    (∀ immLo immHi lo hi : Byte, readByte s.pc s = .next immLo → readByte (s.pc + 1#16) s = .next immHi →
      readByte (immHi ++ immLo) s = .next lo → readByte (immHi ++ immLo + 1#16) s = .next hi →
      ∃ t : State, exec (.ldiLong cond rd) s = .next t ∧
        wroteReg rd (hi ++ lo) s t ∧ t.flags = s.flags ∧ t.pc = s.pc + 2#16)

/-- R94, R122: when its condition holds and the bytes it writes are RAM, STI completes with a byte (bit 6 clear) or a
word (bit 6 set, low byte at the lower address) of the source register at the address the destination register holds;
no register, no flag and no other byte changes, pc after the instruction. -/
def Obligations.StiResult : Prop :=
  ∀ (cond : Cond) (rd rs : Reg) (s : State), condHolds cond s.flags = true →
    encodeWord (.stiByte cond rd rs) = figure 0b00010#5 cond 0 rd.code rs.code ∧
    encodeWord (.stiWord cond rd rs) = figure 0b00010#5 cond 1 rd.code rs.code ∧
    (kindAt s (readReg rd s) = .ram →
      ∃ t : State, exec (.stiByte cond rd rs) s = .next t ∧
        readByte (readReg rd s) t = .next (lowByte (readReg rs s)) ∧
        sameMemoryExcept [readReg rd s] s t ∧ t.regs = s.regs ∧ t.flags = s.flags ∧ t.pc = s.pc ∧ sameBeyond s t) ∧
    (kindAt s (readReg rd s) = .ram → kindAt s (readReg rd s + 1#16) = .ram →
      ∃ t : State, exec (.stiWord cond rd rs) s = .next t ∧
        readByte (readReg rd s) t = .next (lowByte (readReg rs s)) ∧
        readByte (readReg rd s + 1#16) t = .next (highByte (readReg rs s)) ∧
        sameMemoryExcept [readReg rd s, readReg rd s + 1#16] s t ∧
        t.regs = s.regs ∧ t.flags = s.flags ∧ t.pc = s.pc ∧ sameBeyond s t)

/-! ## Arithmetic -/

/-- R130: when its condition holds, each form of NEG completes with the negated source in the destination: C when the
source is 0, V when it is 8000 hexadecimal (C and V by R139, R140 and decision D15, log 20), N and Z from the result,
nothing else changed, pc after the instruction. -/
def Obligations.NegResult : Prop :=
  signedForms 0b00011#5 .negReg .negShort .negLong fun rd src next s t =>
    wroteReg rd (-src) s t ∧ t.pc = next ∧
    (t.flags.c = true ↔ src = 0) ∧ (t.flags.v = true ↔ src = 0x8000#16) ∧ signAndZero (-src) t.flags

/-- R131: when its condition holds, each form of SEX completes with the sign-extended low byte of the source in the
destination: C and V 0, N and Z from the result, nothing else changed, pc after the instruction. The long form reads
only the low byte of its immediate and steps over the other. -/
def Obligations.SexResult : Prop :=
  (∀ b : Byte, (b.signExtend 16).toInt = b.toInt) ∧
  shortForms 0b00100#5 .sexReg .sexShort (fun imm => imm.signExtend 16) (fun rd src next s t =>
    wroteReg rd ((lowByte src).signExtend 16) s t ∧ t.pc = next ∧
    t.flags.c = false ∧ t.flags.v = false ∧ signAndZero ((lowByte src).signExtend 16) t.flags) ∧
  (∀ (cond : Cond) (rd : Reg), encodeWord (.sexLong cond rd) = figure 0b00100#5 cond 1 rd.code 0b100#3 ∧
    ∀ (s : State) (lo : Byte), condHolds cond s.flags = true → readByte s.pc s = .next lo →
      ∃ t : State, exec (.sexLong cond rd) s = .next t ∧ wroteReg rd (lo.signExtend 16) s t ∧ t.pc = s.pc + 2#16 ∧
        t.flags.c = false ∧ t.flags.v = false ∧ signAndZero (lo.signExtend 16) t.flags)

/-- R132, R92: when its condition holds, each form of OFFS completes with the address of the next instruction plus the
source in the destination, the flags and everything else unchanged, pc after the instruction; the short immediate is
doubled. -/
def Obligations.OffsResult : Prop :=
  (∀ imm : BitVec 3, ((imm.signExtend 16 : Word) + imm.signExtend 16).toInt = 2 * imm.toInt) ∧
  shortForms 0b00101#5 .offsReg .offsShort (fun imm => imm.signExtend 16 + imm.signExtend 16)
    (fun rd src next s t => wroteReg rd (next + src) s t ∧ t.flags = s.flags ∧ t.pc = next) ∧
  longForm 0b00101#5 0b100#3 .offsLong
    (fun rd src next s t => wroteReg rd (next + src) s t ∧ t.flags = s.flags ∧ t.pc = next)

/-- R133: when its condition holds, each form of CMP completes with the flags of the difference (C and V by decision
D15, log 20), no register and no memory written, pc after the instruction. -/
def Obligations.CmpResult : Prop :=
  signedForms 0b00110#5 .cmpReg .cmpShort .cmpLong fun rd src next s t =>
    t.regs = s.regs ∧ sameMemory s t ∧ sameBeyond s t ∧ t.pc = next ∧
    flagsOfDifference (readReg rd s) src false (readReg rd s - src) t.flags

/-- R134, R135: when its condition holds, each form of ADD and of ADC (with the C flag before the instruction)
completes with the sum in the destination and its flags (C and V by decision D15, log 20), nothing else changed, pc
after the instruction. -/
def Obligations.AddResults : Prop :=
  signedForms 0b10100#5 .addReg .addShort .addLong (fun rd src next s t =>
    wroteReg rd (readReg rd s + src) s t ∧ t.pc = next ∧
    flagsOfSum (readReg rd s) src false (readReg rd s + src) t.flags) ∧
  signedForms 0b10101#5 .adcReg .adcShort .adcLong (fun rd src next s t =>
    let result := readReg rd s + src + (BitVec.ofBool s.flags.c).setWidth 16
    wroteReg rd result s t ∧ t.pc = next ∧ flagsOfSum (readReg rd s) src s.flags.c result t.flags)

/-- R136, R137: when its condition holds, each form of SUB and of SBC (which subtracts one more when C is clear)
completes with the difference in the destination and its flags (C and V by decision D15, log 20), nothing else
changed, pc after the instruction. -/
def Obligations.SubResults : Prop :=
  signedForms 0b10110#5 .subReg .subShort .subLong (fun rd src next s t =>
    wroteReg rd (readReg rd s - src) s t ∧ t.pc = next ∧
    flagsOfDifference (readReg rd s) src false (readReg rd s - src) t.flags) ∧
  signedForms 0b10111#5 .sbcReg .sbcShort .sbcLong (fun rd src next s t =>
    let result := readReg rd s - src - (BitVec.ofBool (!s.flags.c)).setWidth 16
    wroteReg rd result s t ∧ t.pc = next ∧ flagsOfDifference (readReg rd s) src (!s.flags.c) result t.flags)

/-- R138 to R141: the adder's result and flags, V by the formula on sign bits as well as by the range; R139 and R140
are the spec's decision D15 (log 20). -/
def Obligations.AdderLaws : Prop :=
  ∀ (x y : Word) (cin : Bool),
    (adder x y cin).value.toNat = (x.toNat + y.toNat + cin.toNat) % 2 ^ 16 ∧
    flagsOfSum x y cin (adder x y cin).value (adder x y cin).flags ∧
    ((adder x y cin).flags.v = true ↔ x.msb = y.msb ∧ (adder x y cin).value.msb ≠ x.msb)

/-! ## Bit twiddling -/

/-- R150 to R152: when its condition holds, each form of CLZ, CTZ and CBS completes with the count in the destination,
described by the bits of the source (16 for a source of 0 in CLZ and CTZ, by C7 and decision D20, log 21): N 0, Z when
the count is 0, C and V kept, nothing else changed, pc after the instruction. -/
def Obligations.CountResults : Prop :=
  let counted := fun (isCount : Word → Nat → Prop) (rd : Reg) (src next : Word) (s t : State) =>
    ∃ n : Nat, isCount src n ∧ wroteReg rd (BitVec.ofNat 16 n) s t ∧ t.pc = next ∧
      t.flags.c = s.flags.c ∧ t.flags.v = s.flags.v ∧ t.flags.n = false ∧ (t.flags.z = true ↔ n = 0)
  signedForms 0b01000#5 .clzReg .clzShort .clzLong (counted fun src n =>
    n ≤ 16 ∧ (∀ j < n, src.getLsbD (15 - j) = false) ∧ (n < 16 → src.getLsbD (15 - n) = true)) ∧
  signedForms 0b01001#5 .ctzReg .ctzShort .ctzLong (counted fun src n =>
    n ≤ 16 ∧ (∀ j < n, src.getLsbD j = false) ∧ (n < 16 → src.getLsbD n = true)) ∧
  signedForms 0b01010#5 .cbsReg .cbsShort .cbsLong (counted fun src n =>
    n = (List.range 16).countP fun j => src.getLsbD j)

/-! ## Logic -/

/-- R160 to R164: when its condition holds, each form of AND, OR, XOR and NOT completes with the bitwise result in the
destination, N and Z from it, C and V kept, nothing else changed, pc after the instruction. -/
def Obligations.LogicResults : Prop :=
  let bitwise := fun (op : Bool → Bool → Bool) (rd : Reg) (src next : Word) (s t : State) =>
    ∃ result : Word, (∀ j < 16, result.getLsbD j = op ((readReg rd s).getLsbD j) (src.getLsbD j)) ∧
      wroteReg rd result s t ∧ t.pc = next ∧
      t.flags.c = s.flags.c ∧ t.flags.v = s.flags.v ∧ signAndZero result t.flags
  signedForms 0b10000#5 .andReg .andShort .andLong (bitwise fun x y => x && y) ∧
  signedForms 0b10001#5 .orReg .orShort .orLong (bitwise fun x y => x || y) ∧
  signedForms 0b10010#5 .xorReg .xorShort .xorLong (bitwise fun x y => x != y) ∧
  signedForms 0b10011#5 .notReg .notShort .notLong (bitwise fun _ y => !y)

/-! ## Rotations and shifts -/

/-- R174 to R178: when its condition holds, each form of LSL, LSR and ASR completes with the shift by its whole
sixteen-bit count, as arithmetic, in the destination: C when any set bit was shifted out, V 0, N and Z from the
result, nothing else changed, pc after the instruction (counts of 16 and more are the spec's decision D13, log 19). -/
def Obligations.ShiftResults : Prop :=
  let shifted := fun (isResult : Word → Nat → Word → Prop) (out : Nat → Nat → Prop)
      (rd : Reg) (count next : Word) (s t : State) =>
    ∃ result : Word, isResult (readReg rd s) count.toNat result ∧ wroteReg rd result s t ∧ t.pc = next ∧
      (t.flags.c = true ↔ ∃ j < 16, out j count.toNat ∧ (readReg rd s).getLsbD j = true) ∧
      t.flags.v = false ∧ signAndZero result t.flags
  countForms 0b11101#5 .lslReg .lslShort .lslLong
    (shifted (fun d n r => r.toNat = d.toNat * 2 ^ n % 2 ^ 16) fun j n => 16 - min n 16 ≤ j) ∧
  countForms 0b11100#5 .lsrReg .lsrShort .lsrLong
    (shifted (fun d n r => r.toNat = d.toNat / 2 ^ n) fun j n => j < min n 16) ∧
  countForms 0b11110#5 .asrReg .asrShort .asrLong
    (shifted (fun d n r => r.toInt = d.toInt / 2 ^ n) fun j n => j < min n 16)

/-- R170, R171, R179: ROL and ROR by any count, bit by bit; C is cleared (decision D13, log 19). -/
def Obligations.RotateResults : Prop :=
  let rotated := fun (isResult : Word → Nat → Word → Prop) (rd : Reg) (count next : Word) (s t : State) =>
    ∃ result : Word, isResult (readReg rd s) count.toNat result ∧ wroteReg rd result s t ∧ t.pc = next ∧
      t.flags.c = false ∧ t.flags.v = false ∧ signAndZero result t.flags
  countForms 0b11001#5 .rolReg .rolShort .rolLong
    (rotated fun d n r => ∀ j < 16, r.getLsbD ((j + n) % 16) = d.getLsbD j) ∧
  countForms 0b11000#5 .rorReg .rorShort .rorLong
    (rotated fun d n r => ∀ j < 16, r.getLsbD j = d.getLsbD ((j + n) % 16))

/-- R172, R173, R180: RLC and RRC rotate the seventeen-bit ring of the carry flag above the register by any count
(decision D13, log 19). -/
def Obligations.RotateThroughCarryResults : Prop :=
  let ringBit := fun (carry : Bool) (d : Word) (j : Nat) => if j = 16 then carry else d.getLsbD j
  let rotated := fun (isResult : (Nat → Bool) → Nat → (Nat → Bool) → Prop)
      (rd : Reg) (count next : Word) (s t : State) =>
    ∃ result : Word,
      isResult (ringBit s.flags.c (readReg rd s)) count.toNat (ringBit t.flags.c result) ∧
      wroteReg rd result s t ∧ t.pc = next ∧ t.flags.v = false ∧ signAndZero result t.flags
  countForms 0b11011#5 .rlcReg .rlcShort .rlcLong
    (rotated fun x n x' => ∀ j < 17, x' ((j + n) % 17) = x j) ∧
  countForms 0b11010#5 .rrcReg .rrcShort .rrcLong
    (rotated fun x n x' => ∀ j < 17, x' j = x ((j + n) % 17))

/-! ## Stack -/

/-- R190: when its condition holds and the two bytes below SP are RAM, PUSH completes with the high byte of the source
at SP-1 and the low byte at SP-2, SP less 2, nothing else changed; the source, SP included, is read before SP changes.
-/
def Obligations.PushResult : Prop :=
  ∀ (cond : Cond) (rs : Reg) (s : State), condHolds cond s.flags = true →
    encodeWord (.push cond rs) = figure 0b01100#5 cond 0 0 rs.code ∧
    (kindAt s (readReg .sp s - 1#16) = .ram → kindAt s (readReg .sp s - 2#16) = .ram →
      ∃ t : State, exec (.push cond rs) s = .next t ∧
        readByte (readReg .sp s - 1#16) t = .next (highByte (readReg rs s)) ∧
        readByte (readReg .sp s - 2#16) t = .next (lowByte (readReg rs s)) ∧
        sameMemoryExcept [readReg .sp s - 1#16, readReg .sp s - 2#16] s t ∧
        readReg .sp t = readReg .sp s - 2#16 ∧ sameRegsExcept [.sp] s t ∧
        t.flags = s.flags ∧ t.pc = s.pc ∧ sameBeyond s t)

/-- R191, C10: when its condition holds and the word at SP is readable, POP completes with that word in the
destination and SP advanced by 2, nothing else changed; pop sp leaves the popped word plus 2. -/
def Obligations.PopResult : Prop :=
  ∀ (cond : Cond) (rd : Reg) (s : State) (lo hi : Byte), condHolds cond s.flags = true →
    encodeWord (.pop cond rd) = figure 0b01101#5 cond 0 rd.code 0 ∧
    (readByte (readReg .sp s) s = .next lo → readByte (readReg .sp s + 1#16) s = .next hi →
      ∃ t : State, exec (.pop cond rd) s = .next t ∧
        (rd ≠ .sp → readReg rd t = hi ++ lo ∧ readReg .sp t = readReg .sp s + 2#16) ∧
        (rd = .sp → readReg .sp t = hi ++ lo + 2#16) ∧
        sameRegsExcept [rd, .sp] s t ∧ sameMemory s t ∧ t.flags = s.flags ∧ t.pc = s.pc ∧ sameBeyond s t)

/-- R192: what PUSH put on the stack POP takes off, into any register but SP, with SP back where it was. -/
def Obligations.PushThenPop : Prop :=
  ∀ (rs rd : Reg) (s : State), rd ≠ .sp →
    kindAt s (readReg .sp s - 1#16) = .ram → kindAt s (readReg .sp s - 2#16) = .ram →
    ∃ t u : State, exec (.push .always rs) s = .next t ∧ exec (.pop .always rd) t = .next u ∧
      readReg rd u = readReg rs s ∧ readReg .sp u = readReg .sp s ∧ sameRegsExcept [rd, .sp] s u ∧
      u.flags = s.flags ∧ sameMemoryExcept [readReg .sp s - 1#16, readReg .sp s - 2#16] s u

/-! ## Control flow -/

/-- R200, R28: when its condition holds, J completes at its target, register or long immediate, all sixteen bits of
it, nothing else changed. -/
def Obligations.JumpResult : Prop :=
  ∀ (cond : Cond) (s : State), condHolds cond s.flags = true →
    (∀ rs : Reg, encodeWord (.jReg cond rs) = figure 0b01110#5 cond 0 0 rs.code ∧
      ∃ t : State, exec (.jReg cond rs) s = .next t ∧
        t.pc = readReg rs s ∧ t.regs = s.regs ∧ t.flags = s.flags ∧ sameMemory s t ∧ sameBeyond s t) ∧
    encodeWord (.jLong cond) = figure 0b01110#5 cond 1 0 0b100#3 ∧
    (∀ lo hi : Byte, readByte s.pc s = .next lo → readByte (s.pc + 1#16) s = .next hi →
      ∃ t : State, exec (.jLong cond) s = .next t ∧
        t.pc = hi ++ lo ∧ t.regs = s.regs ∧ t.flags = s.flags ∧ sameMemory s t ∧ sameBeyond s t)

/-- R201: when its condition holds and the two bytes below SP are RAM, CALL in the register form completes with the
address of the next instruction pushed, SP less 2 and pc at the target, nothing else changed; the target register is
read after SP was updated, so call sp goes to the old SP less 2. -/
def Obligations.CallRegisterResult : Prop :=
  ∀ (cond : Cond) (rs : Reg) (s : State), condHolds cond s.flags = true →
    encodeWord (.callReg cond rs) = figure 0b01111#5 cond 0 0 rs.code ∧
    (kindAt s (readReg .sp s - 1#16) = .ram → kindAt s (readReg .sp s - 2#16) = .ram →
      ∃ t : State, exec (.callReg cond rs) s = .next t ∧
        readByte (readReg .sp s - 1#16) t = .next (highByte s.pc) ∧
        readByte (readReg .sp s - 2#16) t = .next (lowByte s.pc) ∧
        sameMemoryExcept [readReg .sp s - 1#16, readReg .sp s - 2#16] s t ∧
        readReg .sp t = readReg .sp s - 2#16 ∧ sameRegsExcept [.sp] s t ∧
        t.pc = (if rs = .sp then readReg .sp s - 2#16 else readReg rs s) ∧ t.flags = s.flags ∧ sameBeyond s t)

/-- R202, decision D2, for both values of CALL_IMM_RETURN (log 9): CALL, long form. The immediate is read after the
push, so where the pushed bytes lie over it the target is taken from them: `after push` below is what each of the two
bytes then reads as. -/
def Obligations.CallLongResult : Prop :=
  ∀ (cond : Cond) (s : State) (lo hi : Byte), condHolds cond s.flags = true →
    encodeWord (.callLong cond) = figure 0b01111#5 cond 1 0 0b100#3 ∧
    (kindAt s (readReg .sp s - 1#16) = .ram → kindAt s (readReg .sp s - 2#16) = .ram →
      let ra := match s.platform.callImmReturn with
        | .nextInstruction => s.pc + 2#16
        | .immediateAddress => s.pc
      let afterPush := fun (a : Word) (b : Byte) =>
        if a = readReg .sp s - 1#16 then b = highByte ra
        else if a = readReg .sp s - 2#16 then b = lowByte ra
        else readByte a s = .next b
      afterPush s.pc lo → afterPush (s.pc + 1#16) hi →
      ∃ t : State, exec (.callLong cond) s = .next t ∧
        readByte (readReg .sp s - 1#16) t = .next (highByte ra) ∧
        readByte (readReg .sp s - 2#16) t = .next (lowByte ra) ∧
        sameMemoryExcept [readReg .sp s - 1#16, readReg .sp s - 2#16] s t ∧
        readReg .sp t = readReg .sp s - 2#16 ∧ sameRegsExcept [.sp] s t ∧
        t.pc = hi ++ lo ∧ t.flags = s.flags ∧ sameBeyond s t)

/-- R203: when its condition holds and the word at SP is readable, RET completes with that word in pc and SP advanced
by 2, nothing else changed. -/
def Obligations.RetResult : Prop :=
  ∀ (cond : Cond) (s : State) (lo hi : Byte), condHolds cond s.flags = true →
    encodeWord (.ret cond) = figure 0b11111#5 cond 0 0 0 ∧
    (readByte (readReg .sp s) s = .next lo → readByte (readReg .sp s + 1#16) s = .next hi →
      ∃ t : State, exec (.ret cond) s = .next t ∧
        t.pc = hi ++ lo ∧ readReg .sp t = readReg .sp s + 2#16 ∧ sameRegsExcept [.sp] s t ∧ sameMemory s t ∧
        t.flags = s.flags ∧ sameBeyond s t)

/-- R285, R288, which the spec derives: RET from the interrupt handler resumes the interrupted program, nothing
skipped and nothing repeated. -/
def Obligations.InterruptThenRet : Prop :=
  ∀ s : State, s.pending = true → kindAt s (readReg .sp s - 1#16) = .ram → kindAt s (readReg .sp s - 2#16) = .ram →
    ∃ t u : State, step s = .next t ∧ exec (.ret .always) t = .next u ∧
      u.pc = s.pc ∧ u.regs = s.regs ∧ u.flags = s.flags ∧ u.pending = false ∧
      sameMemoryExcept [readReg .sp s - 1#16, readReg .sp s - 2#16] s u

/-! ## Exchanges -/

/-- R210: when its condition holds, XCG completes with the two registers exchanged and nothing else changed; a
register exchanged with itself is unchanged. -/
def Obligations.XcgResult : Prop :=
  ∀ (cond : Cond) (rd rs : Reg) (s : State), condHolds cond s.flags = true →
    encodeWord (.xcg cond rd rs) = figure 0b00111#5 cond 0 rd.code rs.code ∧
    ∃ t : State, exec (.xcg cond rd rs) s = .next t ∧
      readReg rd t = readReg rs s ∧ readReg rs t = readReg rd s ∧ sameRegsExcept [rd, rs] s t ∧
      (rd = rs → t.regs = s.regs) ∧ sameMemory s t ∧ t.flags = s.flags ∧ t.pc = s.pc ∧ sameBeyond s t

/-- R211: when its condition holds, each form of FLG completes with the old flags zero-extended in the destination and
the low four bits of the source in the flags, nothing else changed, pc after the instruction. The long form reads only
the low byte of its immediate and steps over the other. -/
def Obligations.FlgResult : Prop :=
  let old := fun (f : Flags) => BitVec.ofNat 16 (8 * f.c.toNat + 4 * f.n.toNat + 2 * f.v.toNat + f.z.toNat)
  let takenFrom := fun (src : Word) (f : Flags) =>
    f.c = src.getLsbD 3 ∧ f.n = src.getLsbD 2 ∧ f.v = src.getLsbD 1 ∧ f.z = src.getLsbD 0
  ∀ (cond : Cond) (rd rs : Reg) (s : State), condHolds cond s.flags = true →
    encodeWord (.flgReg cond rd rs) = figure 0b01011#5 cond 0 rd.code rs.code ∧
    encodeWord (.flgLong cond rd) = figure 0b01011#5 cond 1 rd.code 0b100#3 ∧
    (∃ t : State, exec (.flgReg cond rd rs) s = .next t ∧
      wroteReg rd (old s.flags) s t ∧ takenFrom (readReg rs s) t.flags ∧ t.pc = s.pc) ∧
    (∀ lo : Byte, readByte s.pc s = .next lo →
      ∃ t : State, exec (.flgLong cond rd) s = .next t ∧
        wroteReg rd (old s.flags) s t ∧ takenFrom (lo.setWidth 16) t.flags ∧ t.pc = s.pc + 2#16)

/-- R299, which the spec derives: `flg rX,rX` twice saves and restores the flags, and leaves in the register the low
four bits it had. -/
def Obligations.FlgTwice : Prop :=
  ∀ (r : Reg) (s : State), ∃ t u : State,
    exec (.flgReg .always r r) s = .next t ∧ exec (.flgReg .always r r) t = .next u ∧
    u.flags = s.flags ∧ readReg r u = readReg r s &&& 0x000F#16 ∧ sameRegsExcept [r] s u

/-! ## What every instruction and every step keeps -/

/-- R31, the table: which flags an instruction that completes leaves, clears or keeps. -/
def Obligations.FlagsTable : Prop :=
  ∀ (i : Instr) (s t : State), exec i s = .next t → condHolds i.cond s.flags = true →
    (i.fields.opcode ∈ [.ld, .ldi, .sti, .offs, .push, .pop, .j, .call, .ret, .xcg] → t.flags = s.flags) ∧
    (i.fields.opcode ∈ [.sex, .ror, .rol] → t.flags.c = false ∧ t.flags.v = false) ∧
    (i.fields.opcode ∈ [.clz, .ctz, .cbs] → t.flags.c = s.flags.c ∧ t.flags.n = false ∧ t.flags.v = s.flags.v) ∧
    (i.fields.opcode ∈ [.andOp, .orOp, .xor, .notOp] → t.flags.c = s.flags.c ∧ t.flags.v = s.flags.v) ∧
    (i.fields.opcode ∈ [.rrc, .rlc, .lsr, .lsl, .asr] → t.flags.v = false)

/-- R55: only STI, PUSH and CALL write memory. -/
def Obligations.MemoryWriters : Prop :=
  ∀ (i : Instr) (s t : State), i.fields.opcode ∉ [.sti, .push, .call] → exec i s = .next t → sameMemory s t

/-- R27: a completed instruction that is no control transfer leaves pc after itself. -/
def Obligations.PcSequence : Prop :=
  ∀ (i : Instr) (s t : State), i.fields.opcode ∉ [.j, .call, .ret] → condHolds i.cond s.flags = true →
    exec i s = .next t → t.pc = if i.isLong then s.pc + 2#16 else s.pc

/-- R37, R40: no instruction changes the pending request or the parameters; a step clears the request exactly when it
takes the interrupt (that only the acknowledge clears it is the spec's decision D7, log 10). -/
def Obligations.PendingAndParameters : Prop :=
  (∀ (i : Instr) (s t : State), exec i s = .next t → t.pending = s.pending ∧ t.platform = s.platform) ∧
  (∀ s t : State, step s = .next t → t.pending = false ∧ t.platform = s.platform)

/-- R38, R311: after reset pc is 0, and by the spec's decision D18 (log 4) the state counter is 0 and no request is
pending; the invariant of an instruction boundary holds, and the environment's events keep it. That the mode select
after reset is the one of the word in I is the model's choice of values for both (log 3). That memory reads as holding
no value at every address is the model's choice of a map of RAM everywhere (log 7) with nothing supplied (R58, log 5).
-/
def Obligations.ResetAtBoundary : Prop :=
  State.reset.atBoundary ∧ State.reset.pc = 0 ∧ State.reset.hid.counter = 0 ∧ State.reset.pending = false ∧
  (∀ a : Word, readByte a State.reset = .fault (.uninitialised a)) ∧
  (∀ s : State, s.atBoundary →
    (∀ e : EnvEvent, (environment e s).atBoundary) ∧
    (∀ (a : Word) (bytes : List Byte), (placeBytes a bytes s).atBoundary))

/-- R36, R50, R232: every step keeps the invariant of an instruction boundary. -/
def Obligations.StepKeepsBoundary : Prop :=
  ∀ s t : State, s.atBoundary → step s = .next t → t.atBoundary

/-- R58 (decision D4, logs 6, 7): no step changes a byte that is not RAM. -/
def Obligations.RomNeverWritten : Prop :=
  ∀ (s t : State) (a : Word), step s = .next t → kindAt s a ≠ .ram → byteAt t a = byteAt s a

/-- R58 (decision D4, logs 5, 6): a step faults only where the spec gives no meaning: a bad access at an address that
is not RAM, an uninitialised read at a populated address whose byte holds no value. -/
def Obligations.FaultsAreJustified : Prop :=
  ∀ (s : State) (a : Word),
    (step s = .fault (.badAccess a) → kindAt s a ≠ .ram) ∧
    (step s = .fault (.uninitialised a) → kindAt s a ≠ .absent ∧ byteAt s a = none)

/-- R96 (decision D5, log 16), R97: a step refuses only a reserved form. -/
def Obligations.RefusalsAreReserved : Prop :=
  ∀ (s : State) (r : Refusal), step s = .refused r →
    r = .reservedForm ∧ s.pending = false ∧
    ∃ first second : Byte, readByte s.pc s = .next first ∧ readByte (s.pc + 1#16) s = .next second ∧
      (decodeWord (wordOfBytes first second)).isReserved = true

/-- R39, which the spec derives: the hidden registers carry nothing from one instruction to the next: two states a
program cannot tell apart step to outcomes it cannot tell apart. -/
def Obligations.HiddenStateIsHidden : Prop :=
  ∀ s s' : State, visible s = visible s' → sameOutcome (step s) (step s')

/-- R319, the spec's decision D10 (log 30): a run that has ended stays ended, and every later step leaves what a
program can see unchanged. -/
def Obligations.EndedStays : Prop :=
  ∀ s : State, s.ended = true → ∃ t : State, step s = .next t ∧ visible t = visible s ∧ t.ended = true

/-! ## Memory and the environment -/

/-- R63, the spec's decision D6 (log 23): a byte write is seen by the next read of that address and by no other, at
any address, odd or even. -/
def Obligations.ReadAfterWrite : Prop :=
  ∀ (a b : Word) (v : Byte) (s t : State), writeByte a v s = .next t →
    readByte b t = if b = a then .next v else readByte b s

/-- R16, R68, and the spec's decisions D7 and D9 (R282, R310; logs 10, 11): the environment's two events. Reset sets
pc to 0 and the counter to 0, withdraws the request and writes no memory; raising the request sets it and changes
nothing else, also when it is set already. -/
def Obligations.EnvironmentEvents : Prop :=
  ∀ s : State,
    ((environment .reset s).pc = 0 ∧ (environment .reset s).pending = false ∧
      (environment .reset s).hid.counter = 0 ∧ (environment .reset s).platform = s.platform ∧
      sameMemory s (environment .reset s)) ∧
    ((environment .irq s).pending = true ∧ { environment .irq s with pending := s.pending } = s ∧
      environment .irq (environment .irq s) = environment .irq s)

/-! ## The microcode -/

/-- R5, R221, R246 to R277: the microcode (the fetch into I is the model's reading, log 24) of the arithmetic, logic,
shift and rotate instructions does what `step` does. -/
def Obligations.MicrocodeOfTwoOperand : Prop :=
  microcodeAgrees [.neg, .cmp, .add, .adc, .sub, .sbc, .andOp, .orOp, .xor, .notOp,
    .ror, .rol, .rrc, .rlc, .lsr, .lsl, .asr]

/-- R250, R256 to R258, R263, R265 to R267, R274, R276: the microcode (the fetch into I is the model's reading, log
24; the rows of STI are decision D19, log 26) of the loads, stores, stack and control instructions, OFFS and XCG does
what `step` does; CALL's long form does where CALL_IMM_RETURN has the value the printed listing follows (C3, log 9).
-/
def Obligations.MicrocodeOfMemoryAndControl : Prop :=
  microcodeAgrees [.ld, .ldi, .sti, .offs, .push, .pop, .j, .call, .ret, .xcg]

/-- R251, R252, R254, R255, R273: the microcode (the fetch into I is the model's reading, log 24; flood-down of 0 is
decision D20, log 21) of the counts, SEX and FLG does what `step` does. -/
def Obligations.MicrocodeOfBits : Prop := microcodeAgrees [.clz, .ctz, .cbs, .sex, .flg]

/-- R245, R284: the microcode of interrupt entry does what `step` does, whatever opcode I still holds: that the one
listing stands in the mode 3 row of every opcode is the model's reading (log 27, DEDUCED). -/
def Obligations.MicrocodeOfInterrupt : Prop :=
  ∀ s : State, s.hid.counter = 0 → s.pending = true → microInstruction s = step s

/-- R229, R230, R232: every micro-operation is read back from its control word, and the worked encodings. -/
def Obligations.ControlWordRoundTrip : Prop :=
  (∀ u : MicroOp, decodeControl u.encode = some u) ∧
  MicroOp.encode {} = 0x000000#24 ∧
  MicroOp.encode { source := .reg, select := .sp, toA := true, pcInc := true } = 0x682008#24 ∧
  MicroOp.encode { source := .alu, select := .rd, alu := aluPlain .adc, toReg := true, wf := true } = 0x804043#24 ∧
  MicroOp.encode { source := .mem, addrA := true, aDec := true, aInc := true, toB := true } = 0xB60004#24

/-- R222, R232, R284: no listing is longer than eight micro-operations and `wf` stands only in the last; `ack` stands
in state 7 of the interrupt listing, which has eight, and nowhere else; state 0 is the same in every instruction
listing. R12, N33: a control word or a row that the standard microcode does not contain is refused. That the interrupt
listing stands in the mode 3 row of every opcode, and that a field a listing does not write is 0, is the model's
reading (log 27, DEDUCED). -/
def Obligations.ListingShape : Prop :=
  (∀ (o : Opcode) (m : Mode) (ops : List MicroOp), listing o m = some ops →
    ops.length ≤ 8 ∧ (∀ u ∈ ops.dropLast, u.wf = false) ∧
    (m ≠ .interrupt → ops.head? = some opFirst ∧ ∀ u ∈ ops, u.ack = false)) ∧
  (∀ o : Opcode, ∃ (ops : List MicroOp) (last : MicroOp), listing o .interrupt = some ops ∧ ops.length = 8 ∧
    (∀ u ∈ ops.dropLast, u.ack = false) ∧ ops[7]? = some last ∧ last.ack = true ∧
    controlStore o .interrupt 7 = some last.encode) ∧
  (∀ (w : ControlWord) (s : State), (∀ (o : Opcode) (m : Mode) (state : Nat), controlStore o m state ≠ some w) →
    runWord w s = .refused .undefinedMicroOp) ∧
  (∀ (o : Opcode) (m : Mode) (state : Nat) (s : State), listing o m = none →
    runStored o m state s = .refused .undefinedMicroOp)

/-! ## The assembler -/

/-- R103, which the spec derives: a mnemonic with its condition suffix, in lower case (log 29), is the spelling of no
other mnemonic and condition. A mnemonic is not one instruction: `ld` stands for LD, LDI and STI alike (R102). -/
def Obligations.SpellingUnambiguous : Prop :=
  ∀ (m m' : Mnemonic) (cond cond' : Cond), spelling m cond = spelling m' cond' → m = m' ∧ cond = cond'

/-- R105, which the spec infers (log 29): OFFS assembled for a label, in either form, leaves the label's address in
its register. -/
def Obligations.OffsOfLabel : Prop :=
  ∀ (cond : Cond) (rd : Reg) (label : Word) (s : State), condHolds cond s.flags = true →
    let a := offsToLabel cond rd (s.pc - 2#16) label
    a.instr.wellFormed = true ∧
    ((a.instr.isLong = true → readWord s.pc s = .next a.imm) →
      ∃ t : State, exec a.instr s = .next t ∧ readReg rd t = label ∧ sameRegsExcept [rd] s t)
end

