-- ==== Sys2Proof/Laws/Decode.lean ====
section
/-! SUPPORT. The codes of the fields invert, and the five fields of a packed word are what was packed. -/

namespace Sys2Proof

@[simp] theorem Reg.ofCode_code (r : Reg) : Reg.ofCode r.code = r := by cases r <;> rfl
@[simp] theorem Reg.code_ofCode : ∀ n : BitVec 3, (Reg.ofCode n).code = n := by decide
@[simp] theorem Cond.ofCode_code (cond : Cond) : Cond.ofCode cond.code = cond := by cases cond <;> rfl
@[simp] theorem Cond.code_ofCode : ∀ n : BitVec 4, (Cond.ofCode n).code = n := by decide
@[simp] theorem Opcode.ofCode_code (o : Opcode) : Opcode.ofCode o.code = o := by cases o <;> rfl
@[simp] theorem Opcode.code_ofCode : ∀ n : BitVec 5, (Opcode.ofCode n).code = n := by decide

theorem toNat_packFields (f : Fields) :
    (packFields f).toNat =
      f.opcode.code.toNat * 2048 + f.cond.code.toNat * 128 + f.m.toNat * 64 + f.rd.toNat * 8 + f.source.toNat := by
  have h1 := f.opcode.code.isLt; have h2 := f.cond.code.isLt; have h3 := f.rd.isLt; have h4 := f.source.isLt
  have hm : f.m.toNat ≤ 1 := Bool.toNat_le f.m
  simp only [packFields, BitVec.toNat_append, BitVec.toNat_ofBool]
  rw [← Nat.shiftLeft_add_eq_or_of_lt (by omega), ← Nat.shiftLeft_add_eq_or_of_lt (by omega),
    ← Nat.shiftLeft_add_eq_or_of_lt (by omega), ← Nat.shiftLeft_add_eq_or_of_lt (by omega)]
  simp only [Nat.shiftLeft_eq]
  omega

theorem opcodeField_packFields (f : Fields) : opcodeField (packFields f) = f.opcode.code := by
  apply BitVec.eq_of_toNat_eq
  have h1 := f.opcode.code.isLt; have h2 := f.cond.code.isLt; have h3 := f.rd.isLt; have h4 := f.source.isLt
  have hm : f.m.toNat ≤ 1 := Bool.toNat_le f.m
  simp only [opcodeField, BitVec.extractLsb'_toNat, toNat_packFields, Nat.shiftRight_eq_div_pow]
  omega

theorem condField_packFields (f : Fields) : condField (packFields f) = f.cond.code := by
  apply BitVec.eq_of_toNat_eq
  have h1 := f.opcode.code.isLt; have h2 := f.cond.code.isLt; have h3 := f.rd.isLt; have h4 := f.source.isLt
  have hm : f.m.toNat ≤ 1 := Bool.toNat_le f.m
  simp only [condField, BitVec.extractLsb'_toNat, toNat_packFields, Nat.shiftRight_eq_div_pow]
  omega

theorem rdField_packFields (f : Fields) : rdField (packFields f) = f.rd := by
  apply BitVec.eq_of_toNat_eq
  have h1 := f.opcode.code.isLt; have h2 := f.cond.code.isLt; have h3 := f.rd.isLt; have h4 := f.source.isLt
  have hm : f.m.toNat ≤ 1 := Bool.toNat_le f.m
  simp only [rdField, BitVec.extractLsb'_toNat, toNat_packFields, Nat.shiftRight_eq_div_pow]
  omega

theorem sourceField_packFields (f : Fields) : sourceField (packFields f) = f.source := by
  apply BitVec.eq_of_toNat_eq
  have h1 := f.opcode.code.isLt; have h2 := f.cond.code.isLt; have h3 := f.rd.isLt; have h4 := f.source.isLt
  have hm : f.m.toNat ≤ 1 := Bool.toNat_le f.m
  simp only [sourceField, BitVec.extractLsb'_toNat, toNat_packFields, Nat.shiftRight_eq_div_pow]
  omega

theorem modeBit_packFields (f : Fields) : modeBit (packFields f) = f.m := by
  have h1 := f.opcode.code.isLt; have h2 := f.cond.code.isLt; have h3 := f.rd.isLt; have h4 := f.source.isLt
  simp only [modeBit, BitVec.getLsbD, Nat.testBit_eq_decide_div_mod_eq, toNat_packFields]
  cases f.m <;> simp <;> omega

theorem opcodeOf_packFields (f : Fields) : opcodeOf (packFields f) = f.opcode := by
  simp [opcodeOf, opcodeField_packFields]

end Sys2Proof
end

