-- ==== Sys2Proof/Laws/State.lean ====
section
/-! SUPPORT. One lemma per field per update of State, true by rfl, so that no proof unfolds a record update; and what
reading registers, kinds and bytes after an update gives. -/

namespace Sys2Proof.Machine

/-! ### The register file -/

@[simp] theorem RegFile.get_set_same (f : RegFile) (r : Reg) (v : Word) : (f.set r v).get r = v := by cases r <;> rfl

theorem RegFile.get_set_other (f : RegFile) (r q : Reg) (v : Word) (h : q ≠ r) : (f.set r v).get q = f.get q := by
  cases r <;> cases q <;> first | rfl | exact absurd rfl h

/-- Two register files that read the same everywhere are the same. -/
theorem RegFile.ext_get (f g : RegFile) (h : ∀ r : Reg, f.get r = g.get r) : f = g := by
  obtain ⟨f0, f1, f2, f3, f4, f5, f6, f7⟩ := f
  obtain ⟨g0, g1, g2, g3, g4, g5, g6, g7⟩ := g
  have h0 := h .r0; have h1 := h .r1; have h2 := h .r2; have h3 := h .r3
  have h4 := h .r4; have h5 := h .r5; have h6 := h .r6; have h7 := h .sp
  simp only [RegFile.get] at h0 h1 h2 h3 h4 h5 h6 h7
  simp only [h0, h1, h2, h3, h4, h5, h6, h7]


/-! ### writeReg -/

@[simp] theorem writeReg_regs (r : Reg) (v : Word) (s : State) : (writeReg r v s).regs = s.regs.set r v := rfl
@[simp] theorem writeReg_pc (r : Reg) (v : Word) (s : State) : (writeReg r v s).pc = s.pc := rfl
@[simp] theorem writeReg_flags (r : Reg) (v : Word) (s : State) : (writeReg r v s).flags = s.flags := rfl
@[simp] theorem writeReg_pending (r : Reg) (v : Word) (s : State) : (writeReg r v s).pending = s.pending := rfl
@[simp] theorem writeReg_mem (r : Reg) (v : Word) (s : State) : (writeReg r v s).mem = s.mem := rfl
@[simp] theorem writeReg_platform (r : Reg) (v : Word) (s : State) : (writeReg r v s).platform = s.platform := rfl
@[simp] theorem writeReg_freeCtr (r : Reg) (v : Word) (s : State) : (writeReg r v s).freeCtr = s.freeCtr := rfl
@[simp] theorem writeReg_hid_a (r : Reg) (v : Word) (s : State) : (writeReg r v s).hid.a = s.hid.a := rfl
@[simp] theorem writeReg_hid_b (r : Reg) (v : Word) (s : State) : (writeReg r v s).hid.b = s.hid.b := rfl
@[simp] theorem writeReg_hid_i (r : Reg) (v : Word) (s : State) : (writeReg r v s).hid.i = s.hid.i := rfl
@[simp] theorem writeReg_hid_counter (r : Reg) (v : Word) (s : State) : (writeReg r v s).hid.counter = s.hid.counter := rfl
@[simp] theorem writeReg_hid_mode (r : Reg) (v : Word) (s : State) : (writeReg r v s).hid.mode = s.hid.mode := rfl
@[simp] theorem readReg_writeReg_same (r : Reg) (v : Word) (s : State) : readReg r (writeReg r v s) = v := by
  simp [readReg]
theorem readReg_writeReg_other (r q : Reg) (v : Word) (s : State) (h : q ≠ r) :
    readReg q (writeReg r v s) = readReg q s := by
  simp [readReg, RegFile.get_set_other _ _ _ _ h]
@[simp] theorem kindAt_writeReg (r : Reg) (v : Word) (s : State) (k : Word) : kindAt (writeReg r v s) k = kindAt s k := rfl
@[simp] theorem byteAt_writeReg (r : Reg) (v : Word) (s : State) (k : Word) : byteAt (writeReg r v s) k = byteAt s k := rfl
@[simp] theorem readByte_writeReg (r : Reg) (v : Word) (s : State) (k : Word) : readByte k (writeReg r v s) = readByte k s := rfl
@[simp] theorem readWord_writeReg (r : Reg) (v : Word) (s : State) (k : Word) : readWord k (writeReg r v s) = readWord k s := rfl

/-! ### setPc -/

@[simp] theorem setPc_regs (v : Word) (s : State) : (setPc v s).regs = s.regs := rfl
@[simp] theorem setPc_pc (v : Word) (s : State) : (setPc v s).pc = v := rfl
@[simp] theorem setPc_flags (v : Word) (s : State) : (setPc v s).flags = s.flags := rfl
@[simp] theorem setPc_pending (v : Word) (s : State) : (setPc v s).pending = s.pending := rfl
@[simp] theorem setPc_mem (v : Word) (s : State) : (setPc v s).mem = s.mem := rfl
@[simp] theorem setPc_platform (v : Word) (s : State) : (setPc v s).platform = s.platform := rfl
@[simp] theorem setPc_freeCtr (v : Word) (s : State) : (setPc v s).freeCtr = s.freeCtr := rfl
@[simp] theorem setPc_hid_a (v : Word) (s : State) : (setPc v s).hid.a = s.hid.a := rfl
@[simp] theorem setPc_hid_b (v : Word) (s : State) : (setPc v s).hid.b = s.hid.b := rfl
@[simp] theorem setPc_hid_i (v : Word) (s : State) : (setPc v s).hid.i = s.hid.i := rfl
@[simp] theorem setPc_hid_counter (v : Word) (s : State) : (setPc v s).hid.counter = s.hid.counter := rfl
@[simp] theorem setPc_hid_mode (v : Word) (s : State) : (setPc v s).hid.mode = s.hid.mode := rfl
@[simp] theorem readReg_setPc (v : Word) (s : State) (q : Reg) : readReg q (setPc v s) = readReg q s := rfl
@[simp] theorem kindAt_setPc (v : Word) (s : State) (k : Word) : kindAt (setPc v s) k = kindAt s k := rfl
@[simp] theorem byteAt_setPc (v : Word) (s : State) (k : Word) : byteAt (setPc v s) k = byteAt s k := rfl
@[simp] theorem readByte_setPc (v : Word) (s : State) (k : Word) : readByte k (setPc v s) = readByte k s := rfl
@[simp] theorem readWord_setPc (v : Word) (s : State) (k : Word) : readWord k (setPc v s) = readWord k s := rfl

/-! ### setFlags -/

@[simp] theorem setFlags_regs (f : Flags) (s : State) : (setFlags f s).regs = s.regs := rfl
@[simp] theorem setFlags_pc (f : Flags) (s : State) : (setFlags f s).pc = s.pc := rfl
@[simp] theorem setFlags_flags (f : Flags) (s : State) : (setFlags f s).flags = f := rfl
@[simp] theorem setFlags_pending (f : Flags) (s : State) : (setFlags f s).pending = s.pending := rfl
@[simp] theorem setFlags_mem (f : Flags) (s : State) : (setFlags f s).mem = s.mem := rfl
@[simp] theorem setFlags_platform (f : Flags) (s : State) : (setFlags f s).platform = s.platform := rfl
@[simp] theorem setFlags_freeCtr (f : Flags) (s : State) : (setFlags f s).freeCtr = s.freeCtr := rfl
@[simp] theorem setFlags_hid_a (f : Flags) (s : State) : (setFlags f s).hid.a = s.hid.a := rfl
@[simp] theorem setFlags_hid_b (f : Flags) (s : State) : (setFlags f s).hid.b = s.hid.b := rfl
@[simp] theorem setFlags_hid_i (f : Flags) (s : State) : (setFlags f s).hid.i = s.hid.i := rfl
@[simp] theorem setFlags_hid_counter (f : Flags) (s : State) : (setFlags f s).hid.counter = s.hid.counter := rfl
@[simp] theorem setFlags_hid_mode (f : Flags) (s : State) : (setFlags f s).hid.mode = s.hid.mode := rfl
@[simp] theorem readReg_setFlags (f : Flags) (s : State) (q : Reg) : readReg q (setFlags f s) = readReg q s := rfl
@[simp] theorem kindAt_setFlags (f : Flags) (s : State) (k : Word) : kindAt (setFlags f s) k = kindAt s k := rfl
@[simp] theorem byteAt_setFlags (f : Flags) (s : State) (k : Word) : byteAt (setFlags f s) k = byteAt s k := rfl
@[simp] theorem readByte_setFlags (f : Flags) (s : State) (k : Word) : readByte k (setFlags f s) = readByte k s := rfl
@[simp] theorem readWord_setFlags (f : Flags) (s : State) (k : Word) : readWord k (setFlags f s) = readWord k s := rfl

/-! ### setA -/

@[simp] theorem setA_regs (v : Word) (s : State) : (setA v s).regs = s.regs := rfl
@[simp] theorem setA_pc (v : Word) (s : State) : (setA v s).pc = s.pc := rfl
@[simp] theorem setA_flags (v : Word) (s : State) : (setA v s).flags = s.flags := rfl
@[simp] theorem setA_pending (v : Word) (s : State) : (setA v s).pending = s.pending := rfl
@[simp] theorem setA_mem (v : Word) (s : State) : (setA v s).mem = s.mem := rfl
@[simp] theorem setA_platform (v : Word) (s : State) : (setA v s).platform = s.platform := rfl
@[simp] theorem setA_freeCtr (v : Word) (s : State) : (setA v s).freeCtr = s.freeCtr := rfl
@[simp] theorem setA_hid_a (v : Word) (s : State) : (setA v s).hid.a = v := rfl
@[simp] theorem setA_hid_b (v : Word) (s : State) : (setA v s).hid.b = s.hid.b := rfl
@[simp] theorem setA_hid_i (v : Word) (s : State) : (setA v s).hid.i = s.hid.i := rfl
@[simp] theorem setA_hid_counter (v : Word) (s : State) : (setA v s).hid.counter = s.hid.counter := rfl
@[simp] theorem setA_hid_mode (v : Word) (s : State) : (setA v s).hid.mode = s.hid.mode := rfl
@[simp] theorem readReg_setA (v : Word) (s : State) (q : Reg) : readReg q (setA v s) = readReg q s := rfl
@[simp] theorem kindAt_setA (v : Word) (s : State) (k : Word) : kindAt (setA v s) k = kindAt s k := rfl
@[simp] theorem byteAt_setA (v : Word) (s : State) (k : Word) : byteAt (setA v s) k = byteAt s k := rfl
@[simp] theorem readByte_setA (v : Word) (s : State) (k : Word) : readByte k (setA v s) = readByte k s := rfl
@[simp] theorem readWord_setA (v : Word) (s : State) (k : Word) : readWord k (setA v s) = readWord k s := rfl

/-! ### setB -/

@[simp] theorem setB_regs (v : Word) (s : State) : (setB v s).regs = s.regs := rfl
@[simp] theorem setB_pc (v : Word) (s : State) : (setB v s).pc = s.pc := rfl
@[simp] theorem setB_flags (v : Word) (s : State) : (setB v s).flags = s.flags := rfl
@[simp] theorem setB_pending (v : Word) (s : State) : (setB v s).pending = s.pending := rfl
@[simp] theorem setB_mem (v : Word) (s : State) : (setB v s).mem = s.mem := rfl
@[simp] theorem setB_platform (v : Word) (s : State) : (setB v s).platform = s.platform := rfl
@[simp] theorem setB_freeCtr (v : Word) (s : State) : (setB v s).freeCtr = s.freeCtr := rfl
@[simp] theorem setB_hid_a (v : Word) (s : State) : (setB v s).hid.a = s.hid.a := rfl
@[simp] theorem setB_hid_b (v : Word) (s : State) : (setB v s).hid.b = v := rfl
@[simp] theorem setB_hid_i (v : Word) (s : State) : (setB v s).hid.i = s.hid.i := rfl
@[simp] theorem setB_hid_counter (v : Word) (s : State) : (setB v s).hid.counter = s.hid.counter := rfl
@[simp] theorem setB_hid_mode (v : Word) (s : State) : (setB v s).hid.mode = s.hid.mode := rfl
@[simp] theorem readReg_setB (v : Word) (s : State) (q : Reg) : readReg q (setB v s) = readReg q s := rfl
@[simp] theorem kindAt_setB (v : Word) (s : State) (k : Word) : kindAt (setB v s) k = kindAt s k := rfl
@[simp] theorem byteAt_setB (v : Word) (s : State) (k : Word) : byteAt (setB v s) k = byteAt s k := rfl
@[simp] theorem readByte_setB (v : Word) (s : State) (k : Word) : readByte k (setB v s) = readByte k s := rfl
@[simp] theorem readWord_setB (v : Word) (s : State) (k : Word) : readWord k (setB v s) = readWord k s := rfl

/-! ### setAB -/

@[simp] theorem setAB_regs (x y : Word) (s : State) : (setAB x y s).regs = s.regs := rfl
@[simp] theorem setAB_pc (x y : Word) (s : State) : (setAB x y s).pc = s.pc := rfl
@[simp] theorem setAB_flags (x y : Word) (s : State) : (setAB x y s).flags = s.flags := rfl
@[simp] theorem setAB_pending (x y : Word) (s : State) : (setAB x y s).pending = s.pending := rfl
@[simp] theorem setAB_mem (x y : Word) (s : State) : (setAB x y s).mem = s.mem := rfl
@[simp] theorem setAB_platform (x y : Word) (s : State) : (setAB x y s).platform = s.platform := rfl
@[simp] theorem setAB_freeCtr (x y : Word) (s : State) : (setAB x y s).freeCtr = s.freeCtr := rfl
@[simp] theorem setAB_hid_a (x y : Word) (s : State) : (setAB x y s).hid.a = x := rfl
@[simp] theorem setAB_hid_b (x y : Word) (s : State) : (setAB x y s).hid.b = y := rfl
@[simp] theorem setAB_hid_i (x y : Word) (s : State) : (setAB x y s).hid.i = s.hid.i := rfl
@[simp] theorem setAB_hid_counter (x y : Word) (s : State) : (setAB x y s).hid.counter = s.hid.counter := rfl
@[simp] theorem setAB_hid_mode (x y : Word) (s : State) : (setAB x y s).hid.mode = s.hid.mode := rfl
@[simp] theorem readReg_setAB (x y : Word) (s : State) (q : Reg) : readReg q (setAB x y s) = readReg q s := rfl
@[simp] theorem kindAt_setAB (x y : Word) (s : State) (k : Word) : kindAt (setAB x y s) k = kindAt s k := rfl
@[simp] theorem byteAt_setAB (x y : Word) (s : State) (k : Word) : byteAt (setAB x y s) k = byteAt s k := rfl
@[simp] theorem readByte_setAB (x y : Word) (s : State) (k : Word) : readByte k (setAB x y s) = readByte k s := rfl
@[simp] theorem readWord_setAB (x y : Word) (s : State) (k : Word) : readWord k (setAB x y s) = readWord k s := rfl

/-! ### storeByte -/

@[simp] theorem storeByte_regs (a : Word) (v : Byte) (s : State) : (storeByte a v s).regs = s.regs := rfl
@[simp] theorem storeByte_pc (a : Word) (v : Byte) (s : State) : (storeByte a v s).pc = s.pc := rfl
@[simp] theorem storeByte_flags (a : Word) (v : Byte) (s : State) : (storeByte a v s).flags = s.flags := rfl
@[simp] theorem storeByte_pending (a : Word) (v : Byte) (s : State) : (storeByte a v s).pending = s.pending := rfl
@[simp] theorem storeByte_mem (a : Word) (v : Byte) (s : State) : (storeByte a v s).mem = s.mem.insert a.toNat v := rfl
@[simp] theorem storeByte_platform (a : Word) (v : Byte) (s : State) : (storeByte a v s).platform = s.platform := rfl
@[simp] theorem storeByte_freeCtr (a : Word) (v : Byte) (s : State) : (storeByte a v s).freeCtr = s.freeCtr := rfl
@[simp] theorem storeByte_hid_a (a : Word) (v : Byte) (s : State) : (storeByte a v s).hid.a = s.hid.a := rfl
@[simp] theorem storeByte_hid_b (a : Word) (v : Byte) (s : State) : (storeByte a v s).hid.b = s.hid.b := rfl
@[simp] theorem storeByte_hid_i (a : Word) (v : Byte) (s : State) : (storeByte a v s).hid.i = s.hid.i := rfl
@[simp] theorem storeByte_hid_counter (a : Word) (v : Byte) (s : State) : (storeByte a v s).hid.counter = s.hid.counter := rfl
@[simp] theorem storeByte_hid_mode (a : Word) (v : Byte) (s : State) : (storeByte a v s).hid.mode = s.hid.mode := rfl
@[simp] theorem readReg_storeByte (a : Word) (v : Byte) (s : State) (q : Reg) : readReg q (storeByte a v s) = readReg q s := rfl
@[simp] theorem kindAt_storeByte (a : Word) (v : Byte) (s : State) (k : Word) : kindAt (storeByte a v s) k = kindAt s k := rfl

/-! ### latch -/

@[simp] theorem latch_regs (w : Word) (s : State) : (latch w s).regs = s.regs := rfl
@[simp] theorem latch_pc (w : Word) (s : State) : (latch w s).pc = s.pc + 2#16 := rfl
@[simp] theorem latch_flags (w : Word) (s : State) : (latch w s).flags = s.flags := rfl
@[simp] theorem latch_pending (w : Word) (s : State) : (latch w s).pending = s.pending := rfl
@[simp] theorem latch_mem (w : Word) (s : State) : (latch w s).mem = s.mem := rfl
@[simp] theorem latch_platform (w : Word) (s : State) : (latch w s).platform = s.platform := rfl
@[simp] theorem latch_freeCtr (w : Word) (s : State) : (latch w s).freeCtr = s.freeCtr := rfl
@[simp] theorem latch_hid_a (w : Word) (s : State) : (latch w s).hid.a = readReg .sp s := rfl
@[simp] theorem latch_hid_b (w : Word) (s : State) : (latch w s).hid.b = s.hid.b := rfl
@[simp] theorem latch_hid_i (w : Word) (s : State) : (latch w s).hid.i = w := rfl
@[simp] theorem latch_hid_counter (w : Word) (s : State) : (latch w s).hid.counter = 0 := rfl
@[simp] theorem latch_hid_mode (w : Word) (s : State) : (latch w s).hid.mode = modeSelect w := rfl
@[simp] theorem readReg_latch (w : Word) (s : State) (q : Reg) : readReg q (latch w s) = readReg q s := rfl
@[simp] theorem kindAt_latch (w : Word) (s : State) (k : Word) : kindAt (latch w s) k = kindAt s k := rfl
@[simp] theorem byteAt_latch (w : Word) (s : State) (k : Word) : byteAt (latch w s) k = byteAt s k := rfl
@[simp] theorem readByte_latch (w : Word) (s : State) (k : Word) : readByte k (latch w s) = readByte k s := rfl
@[simp] theorem readWord_latch (w : Word) (s : State) (k : Word) : readWord k (latch w s) = readWord k s := rfl

/-! ### raiseIrq -/

@[simp] theorem raiseIrq_regs (s : State) : (raiseIrq s).regs = s.regs := rfl
@[simp] theorem raiseIrq_pc (s : State) : (raiseIrq s).pc = s.pc := rfl
@[simp] theorem raiseIrq_flags (s : State) : (raiseIrq s).flags = s.flags := rfl
@[simp] theorem raiseIrq_pending (s : State) : (raiseIrq s).pending = true := rfl
@[simp] theorem raiseIrq_mem (s : State) : (raiseIrq s).mem = s.mem := rfl
@[simp] theorem raiseIrq_platform (s : State) : (raiseIrq s).platform = s.platform := rfl
@[simp] theorem raiseIrq_freeCtr (s : State) : (raiseIrq s).freeCtr = s.freeCtr := rfl
@[simp] theorem raiseIrq_hid_a (s : State) : (raiseIrq s).hid.a = s.hid.a := rfl
@[simp] theorem raiseIrq_hid_b (s : State) : (raiseIrq s).hid.b = s.hid.b := rfl
@[simp] theorem raiseIrq_hid_i (s : State) : (raiseIrq s).hid.i = s.hid.i := rfl
@[simp] theorem raiseIrq_hid_counter (s : State) : (raiseIrq s).hid.counter = s.hid.counter := rfl
@[simp] theorem raiseIrq_hid_mode (s : State) : (raiseIrq s).hid.mode = s.hid.mode := rfl
@[simp] theorem readReg_raiseIrq (s : State) (q : Reg) : readReg q (raiseIrq s) = readReg q s := rfl
@[simp] theorem kindAt_raiseIrq (s : State) (k : Word) : kindAt (raiseIrq s) k = kindAt s k := rfl
@[simp] theorem byteAt_raiseIrq (s : State) (k : Word) : byteAt (raiseIrq s) k = byteAt s k := rfl
@[simp] theorem readByte_raiseIrq (s : State) (k : Word) : readByte k (raiseIrq s) = readByte k s := rfl
@[simp] theorem readWord_raiseIrq (s : State) (k : Word) : readWord k (raiseIrq s) = readWord k s := rfl

/-! ### passOver and assertReset -/

/-- Passing over changes pc, A, B and the counter of free values, and nothing else. -/
theorem passOver_frame (f : Form) (s : State) :
    (passOver f s).regs = s.regs ∧ (passOver f s).flags = s.flags ∧ (passOver f s).pending = s.pending ∧
    (passOver f s).mem = s.mem ∧ (passOver f s).platform = s.platform ∧ (passOver f s).hid.i = s.hid.i ∧
    (passOver f s).hid.counter = s.hid.counter ∧ (passOver f s).hid.mode = s.hid.mode ∧
    (passOver f s).freeCtr = s.freeCtr + 2 := by
  cases f <;> exact ⟨rfl, rfl, rfl, rfl, rfl, rfl, rfl, rfl, rfl⟩

@[simp] theorem passOver_twoByte_pc (s : State) : (passOver .twoByte s).pc = s.pc := rfl
@[simp] theorem passOver_long_pc (s : State) : (passOver .long s).pc = passedLong s := rfl

@[simp] theorem assertReset_pc (s : State) : (assertReset s).pc = 0 := rfl
@[simp] theorem assertReset_mem (s : State) : (assertReset s).mem = s.mem := rfl
@[simp] theorem assertReset_platform (s : State) : (assertReset s).platform = s.platform := rfl
@[simp] theorem assertReset_pending (s : State) : (assertReset s).pending = false := rfl

end Sys2Proof.Machine
end

