-- ==== Sys2Proof/Laws/Memory.lean ====
section
/-! SUPPORT. Memory: reading after writing, the canonical form kept by every memory operation, and what a byte read,
a byte write and the word accesses can answer. -/

namespace Sys2Proof.Machine

/-! ### The list -/

@[simp] theorem Memory.lookup_nil (a : Nat) : Memory.lookup [] a = none := rfl

theorem Memory.lookup_insert_same (m : Memory) (a : Nat) (v : Byte) : (Memory.insert m a v).lookup a = some v := by
  induction m with
  | nil => simp [Memory.insert, Memory.lookup]
  | cons c rest ih =>
    obtain ⟨k, w⟩ := c
    simp only [Memory.insert]
    split
    · simp [Memory.lookup]
    · split
      · simp [Memory.lookup]
      · rename_i h1 h2
        simp [Memory.lookup, ih, Ne.symm h2]

theorem Memory.lookup_insert_other (m : Memory) (a b : Nat) (v : Byte) (h : b ≠ a) :
    (Memory.insert m a v).lookup b = m.lookup b := by
  induction m with
  | nil => simp [Memory.insert, Memory.lookup, Ne.symm h]
  | cons c rest ih =>
    obtain ⟨k, w⟩ := c
    simp only [Memory.insert]
    split
    · simp [Memory.lookup, Ne.symm h]
    · split
      · rename_i h1 h2
        subst h2
        simp [Memory.lookup, Ne.symm h]
      · simp [Memory.lookup, ih]

theorem Memory.risingFrom_insert (m : Memory) (low a : Nat) (v : Byte) (hlow : low ≤ a) (ha : a < 0x10000)
    (h : Memory.risingFrom low m = true) : Memory.risingFrom low (Memory.insert m a v) = true := by
  induction m generalizing low with
  | nil => simp [Memory.insert, Memory.risingFrom, hlow, ha]
  | cons c rest ih =>
    obtain ⟨k, w⟩ := c
    simp only [Memory.risingFrom, Bool.and_eq_true, decide_eq_true_eq] at h
    obtain ⟨⟨h1, h2⟩, h3⟩ := h
    simp only [Memory.insert]
    split
    · rename_i hk
      simp [Memory.risingFrom, hlow, ha, h2, h3, Nat.succ_le_of_lt hk]
    · split
      · rename_i hk
        subst hk
        simp [Memory.risingFrom, hlow, ha, h3]
      · simp only [Memory.risingFrom, Bool.and_eq_true, decide_eq_true_eq]
        exact ⟨⟨h1, h2⟩, ih (k + 1) (by omega) h3⟩

/-- Writing a byte keeps the canonical form. -/
theorem Memory.wf_insert (m : Memory) (a : Word) (v : Byte) (h : m.wf = true) :
    (Memory.insert m a.toNat v).wf = true :=
  Memory.risingFrom_insert m 0 a.toNat v (Nat.zero_le _) a.isLt h

theorem Memory.risingFrom_mono (m : Memory) (low low' : Nat) (hl : low' ≤ low)
    (h : Memory.risingFrom low m = true) : Memory.risingFrom low' m = true := by
  cases m with
  | nil => rfl
  | cons c rest =>
    simp only [Memory.risingFrom, Bool.and_eq_true, decide_eq_true_eq] at h ⊢
    exact ⟨⟨Nat.le_trans hl h.1.1, h.1.2⟩, h.2⟩

theorem Memory.lookup_below (m : Memory) (low a : Nat) (h : Memory.risingFrom low m = true) (ha : a < low) :
    m.lookup a = none := by
  induction m generalizing low with
  | nil => rfl
  | cons c rest ih =>
    obtain ⟨k, w⟩ := c
    simp only [Memory.risingFrom, Bool.and_eq_true, decide_eq_true_eq] at h
    have hk : k ≠ a := by omega
    simp only [Memory.lookup, hk, if_false]
    exact ih (k + 1) h.2 (by omega)

/-- Two memories in canonical form that read the same everywhere are the same list: equal memories are equal data. -/
theorem Memory.ext_of_rising (m n : Memory) (low : Nat) (hm : Memory.risingFrom low m = true)
    (hn : Memory.risingFrom low n = true) (h : ∀ a, m.lookup a = n.lookup a) : m = n := by
  induction m generalizing n low with
  | nil =>
    cases n with
    | nil => rfl
    | cons d rest' => have := h d.1; simp [Memory.lookup] at this
  | cons c rest ih =>
    obtain ⟨k, w⟩ := c
    cases n with
    | nil => have := h k; simp [Memory.lookup] at this
    | cons d rest' =>
      obtain ⟨k', w'⟩ := d
      simp only [Memory.risingFrom, Bool.and_eq_true, decide_eq_true_eq] at hm hn
      have hkk : k = k' := by
        rcases Nat.lt_trichotomy k k' with hlt | heq | hgt
        · have h1 := h k
          have hne : k' ≠ k := by omega
          simp only [Memory.lookup, if_true, hne, if_false,
            Memory.lookup_below rest' (k' + 1) k hn.2 (by omega)] at h1
          cases h1
        · exact heq
        · have h1 := h k'
          have hne : k ≠ k' := by omega
          simp only [Memory.lookup, if_true, hne, if_false,
            Memory.lookup_below rest (k + 1) k' hm.2 (by omega)] at h1
          cases h1
      subst hkk
      have hw : w = w' := by have h1 := h k; simpa [Memory.lookup] using h1
      subst hw
      have hrest : rest = rest' := by
        refine ih rest' (k + 1) hm.2 hn.2 fun a => ?_
        by_cases hak : k = a
        · subst hak
          rw [Memory.lookup_below rest (k + 1) k hm.2 (by omega), Memory.lookup_below rest' (k + 1) k hn.2 (by omega)]
        · have h1 := h a
          simpa [Memory.lookup, hak] using h1
      rw [hrest]

theorem reset_mem_wf : State.reset.mem.wf = true := rfl

theorem storeByte_wf (a : Word) (v : Byte) (s : State) (h : s.mem.wf = true) : (storeByte a v s).mem.wf = true :=
  Memory.wf_insert s.mem a v h

theorem placeBytes_wf (bytes : List Byte) (a : Word) (s : State) (h : s.mem.wf = true) :
    (placeBytes a bytes s).mem.wf = true := by
  induction bytes generalizing a s with
  | nil => exact h
  | cons b rest ih => exact ih (a + 1#16) (storeByte a b s) (storeByte_wf a b s h)

/-! ### One byte -/

theorem byteAt_storeByte_same (a : Word) (v : Byte) (s : State) : byteAt (storeByte a v s) a = some v :=
  Memory.lookup_insert_same s.mem a.toNat v

theorem byteAt_storeByte_other (a b : Word) (v : Byte) (s : State) (h : b ≠ a) :
    byteAt (storeByte a v s) b = byteAt s b :=
  Memory.lookup_insert_other s.mem a.toNat b.toNat v fun hn => h (BitVec.eq_of_toNat_eq hn)

theorem readByte_storeByte_same (a : Word) (v : Byte) (s : State) (h : kindAt s a = .ram) :
    readByte a (storeByte a v s) = .next v := by
  simp [readByte, h, byteAt_storeByte_same]

theorem readByte_storeByte_other (a b : Word) (v : Byte) (s : State) (h : b ≠ a) :
    readByte b (storeByte a v s) = readByte b s := by
  simp [readByte, byteAt_storeByte_other a b v s h]

/-- A byte read answers a byte exactly where the address is populated and the byte has a value. -/
theorem readByte_eq_next (a : Word) (s : State) (v : Byte) :
    readByte a s = .next v ↔ kindAt s a ≠ .absent ∧ byteAt s a = some v := by
  unfold readByte
  cases hk : kindAt s a <;> cases hb : byteAt s a <;> simp

/-- A byte read stops exactly where nothing stands at the address, or a populated address holds no value. -/
theorem readByte_eq_fault (a : Word) (s : State) (f : Fault) :
    readByte a s = .fault f ↔
      (kindAt s a = .absent ∧ f = .badAccess a) ∨
      (kindAt s a ≠ .absent ∧ byteAt s a = none ∧ f = .uninitialised a) := by
  unfold readByte
  cases kindAt s a <;> cases byteAt s a <;> simp [eq_comm]

/-- A byte read never refuses. -/
theorem readByte_not_refused (a : Word) (s : State) (f : Refusal) : readByte a s ≠ .refused f := by
  unfold readByte
  cases kindAt s a <;> cases byteAt s a <;> simp

/-- All a byte write can do: put the byte into RAM. -/
theorem writeByte_eq_next (a : Word) (v : Byte) (s t : State) :
    writeByte a v s = .next t ↔ kindAt s a = .ram ∧ t = storeByte a v s := by
  unfold writeByte
  cases kindAt s a <;> simp [eq_comm]

theorem writeByte_ram (a : Word) (v : Byte) (s : State) (h : kindAt s a = .ram) :
    writeByte a v s = .next (storeByte a v s) := by simp [writeByte, h]

theorem writeByte_not_ram (a : Word) (v : Byte) (s : State) (h : kindAt s a ≠ .ram) :
    writeByte a v s = .fault (.badAccess a) := by
  unfold writeByte
  cases hk : kindAt s a <;> simp_all

theorem writeByte_not_refused (a : Word) (v : Byte) (s : State) (f : Refusal) : writeByte a v s ≠ .refused f := by
  unfold writeByte
  cases kindAt s a <;> simp

/-! ### Sequencing -/

@[simp] theorem andThen_next {α β : Type} (x : α) (k : α → Result β) : andThen (.next x) k = k x := rfl
@[simp] theorem andThen_fault {α β : Type} (f : Fault) (k : α → Result β) : andThen (.fault f) k = .fault f := rfl
@[simp] theorem andThen_refused {α β : Type} (f : Refusal) (k : α → Result β) :
    andThen (.refused f) k = .refused f := rfl

theorem andThen_eq_next {α β : Type} (r : Result α) (k : α → Result β) (y : β) :
    andThen r k = .next y ↔ ∃ x, r = .next x ∧ k x = .next y := by
  cases r <;> simp [andThen]

theorem andThen_eq_refused {α β : Type} (r : Result α) (k : α → Result β) (f : Refusal) :
    andThen r k = .refused f ↔ r = .refused f ∨ ∃ x, r = .next x ∧ k x = .refused f := by
  cases r <;> simp [andThen]

theorem andThen_eq_fault {α β : Type} (r : Result α) (k : α → Result β) (f : Fault) :
    andThen r k = .fault f ↔ r = .fault f ∨ ∃ x, r = .next x ∧ k x = .fault f := by
  cases r <;> simp [andThen]

theorem andThen_assoc {α β γ : Type} (r : Result α) (k : α → Result β) (l : β → Result γ) :
    andThen (andThen r k) l = andThen r fun x => andThen (k x) l := by
  cases r <;> rfl

/-! ### A word as two bytes -/

theorem getLsbD_immOfBytes (lo hi : Byte) (i : Nat) :
    (immOfBytes lo hi).getLsbD i = if i < 8 then lo.getLsbD i else hi.getLsbD (i - 8) := by
  have h := BitVec.getLsbD_append (x := hi) (y := lo) (i := i)
  rw [immOfBytes, h]

theorem highByte_immOfBytes (lo hi : Byte) : highByte (immOfBytes lo hi) = hi := by
  apply BitVec.eq_of_getLsbD_eq
  intro i h
  simp only [highByte, BitVec.getLsbD_extractLsb', getLsbD_immOfBytes]
  simp [h]

theorem lowByte_immOfBytes (lo hi : Byte) : lowByte (immOfBytes lo hi) = lo := by
  apply BitVec.eq_of_getLsbD_eq
  intro i h
  simp only [lowByte, BitVec.getLsbD_extractLsb', getLsbD_immOfBytes]
  simp [h]

theorem immOfBytes_parts (w : Word) : immOfBytes (lowByte w) (highByte w) = w := by
  apply BitVec.eq_of_getLsbD_eq
  intro i h
  rw [getLsbD_immOfBytes]
  simp only [highByte, lowByte, BitVec.getLsbD_extractLsb']
  by_cases h8 : i < 8
  · simp [h8]
  · have h1 : i - 8 < 8 := by omega
    have h2 : 8 + (i - 8) = i := by omega
    simp [h8, h1, h2]

theorem wordOfBytes_parts (w : Word) : wordOfBytes (highByte w) (lowByte w) = w := immOfBytes_parts w

/-- A word read answers the two bytes, low byte first. -/
theorem readWord_eq_next (a : Word) (s : State) (w : Word) :
    readWord a s = .next w ↔
      ∃ lo hi, readByte a s = .next lo ∧ readByte (a + 1#16) s = .next hi ∧ w = immOfBytes lo hi := by
  simp only [readWord, andThen_eq_next, Host.Outcome.next.injEq]
  constructor
  · rintro ⟨lo, h1, hi, h2, h3⟩; exact ⟨lo, hi, h1, h2, h3.symm⟩
  · rintro ⟨lo, hi, h1, h2, h3⟩; exact ⟨lo, h1, hi, h2, h3.symm⟩

/-- All a word store can do: both bytes into RAM, the low one first. -/
theorem storeWord_eq_next (a v : Word) (s t : State) :
    storeWord a v s = .next t ↔
      kindAt s a = .ram ∧ kindAt s (a + 1#16) = .ram ∧
        t = storeByte (a + 1#16) (highByte v) (storeByte a (lowByte v) s) := by
  simp only [storeWord, andThen_eq_next, writeByte_eq_next]
  constructor
  · rintro ⟨u, ⟨h1, rfl⟩, h2, h3⟩; exact ⟨h1, h2, h3⟩
  · rintro ⟨h1, h2, h3⟩; exact ⟨_, ⟨h1, rfl⟩, h2, h3⟩

/-- A word read stops at its first byte, or at its second when the first is read. -/
theorem readWord_eq_fault (a : Word) (s : State) (f : Fault) :
    readWord a s = .fault f ↔
      readByte a s = .fault f ∨ ∃ lo : Byte, readByte a s = .next lo ∧ readByte (a + 1#16) s = .fault f := by
  simp [readWord, andThen_eq_fault]

theorem readWord_not_refused (a : Word) (s : State) (f : Refusal) : readWord a s ≠ .refused f := by
  intro h
  rcases (andThen_eq_refused _ _ _).1 h with h | ⟨_, -, h⟩
  · exact readByte_not_refused _ _ _ h
  · rcases (andThen_eq_refused _ _ _).1 h with h | ⟨_, -, h⟩
    · exact readByte_not_refused _ _ _ h
    · cases h

end Sys2Proof.Machine
end

