-- ==== Sys2Proof/Laws/Ops.lean ====
section
/-! SUPPORT. One lemma per shared operation that says once everything it can do. -/

namespace Sys2Proof.Machine

/-! ### The stack -/

theorem pushWord_eq_next (v : Word) (s t : State) :
    pushWord v s = .next t ↔
      kindAt s (readReg .sp s - 1#16) = .ram ∧ kindAt s (readReg .sp s - 2#16) = .ram ∧
      t = setAB (readReg .sp s - 2#16) 0#16 (writeReg .sp (readReg .sp s - 2#16)
            (storeByte (readReg .sp s - 2#16) (lowByte v) (storeByte (readReg .sp s - 1#16) (highByte v) s))) := by
  simp only [pushWord, andThen_eq_next, writeByte_eq_next, Host.Outcome.next.injEq]
  constructor
  · rintro ⟨u, ⟨h1, rfl⟩, w, ⟨h2, rfl⟩, rfl⟩; exact ⟨h1, h2, rfl⟩
  · rintro ⟨h1, h2, rfl⟩; exact ⟨_, ⟨h1, rfl⟩, _, ⟨h2, rfl⟩, rfl⟩

/-- A push onto a writable stack completes. -/
theorem pushWord_ram (v : Word) (s : State) (h1 : kindAt s (readReg .sp s - 1#16) = .ram)
    (h2 : kindAt s (readReg .sp s - 2#16) = .ram) :
    pushWord v s = .next (setAB (readReg .sp s - 2#16) 0#16 (writeReg .sp (readReg .sp s - 2#16)
      (storeByte (readReg .sp s - 2#16) (lowByte v) (storeByte (readReg .sp s - 1#16) (highByte v) s)))) :=
  (pushWord_eq_next v s _).2 ⟨h1, h2, rfl⟩

/-- A push stops at the first of its two bytes that is not RAM, the high byte's address first. -/
theorem pushWord_stops (v : Word) (s : State) :
    (kindAt s (readReg .sp s - 1#16) ≠ .ram → pushWord v s = .fault (.badAccess (readReg .sp s - 1#16))) ∧
    (kindAt s (readReg .sp s - 1#16) = .ram → kindAt s (readReg .sp s - 2#16) ≠ .ram →
      pushWord v s = .fault (.badAccess (readReg .sp s - 2#16))) := by
  constructor
  · intro h; simp only [pushWord, writeByte_not_ram _ _ _ h, andThen_fault]
  · intro h1 h2
    simp only [pushWord, writeByte_ram _ _ _ h1, andThen_next]
    rw [writeByte_not_ram _ _ _ (by simpa using h2)]
    rfl

theorem pushWord_not_refused (v : Word) (s : State) (f : Refusal) : pushWord v s ≠ .refused f := by
  intro h
  rcases (andThen_eq_refused _ _ _).1 h with h | ⟨_, -, h⟩
  · exact writeByte_not_refused _ _ _ _ h
  · rcases (andThen_eq_refused _ _ _).1 h with h | ⟨_, -, h⟩
    · exact writeByte_not_refused _ _ _ _ h
    · cases h

theorem dropWord_eq (s : State) :
    dropWord s = setAB (readReg .sp s + 1#16) 1#16 (writeReg .sp (readReg .sp s + 2#16) s) := rfl

theorem returnFrom_eq_next (s t : State) :
    returnFrom s = .next t ↔ ∃ w, readWord (readReg .sp s) s = .next w ∧ t = dropWord (setPc w s) := by
  simp only [returnFrom, andThen_eq_next, topWord, Host.Outcome.next.injEq, @eq_comm _ t]

/-! ### The fetch -/

theorem fetch_eq_next (s : State) (i : Instr) (t : State) :
    fetch s = .next (i, t) ↔
      ∃ first second, readByte s.pc s = .next first ∧ readByte (s.pc + 1#16) s = .next second ∧
        i = decodeWord (wordOfBytes first second) ∧ t = latch (wordOfBytes first second) s := by
  simp only [fetch, andThen_eq_next, Host.Outcome.next.injEq, Prod.mk.injEq]
  constructor
  · rintro ⟨x, h1, y, h2, rfl, rfl⟩; exact ⟨x, y, h1, h2, rfl, rfl⟩
  · rintro ⟨x, y, h1, h2, rfl, rfl⟩; exact ⟨x, h1, y, h2, rfl, rfl⟩

theorem fetch_not_refused (s : State) (f : Refusal) : fetch s ≠ .refused f := by
  intro h
  rcases (andThen_eq_refused _ _ _).1 h with h | ⟨_, -, h⟩
  · exact readByte_not_refused _ _ _ h
  · rcases (andThen_eq_refused _ _ _).1 h with h | ⟨_, -, h⟩
    · exact readByte_not_refused _ _ _ h
    · cases h

/-! ### Interrupt entry -/

theorem interruptEntry_eq_next (s t : State) :
    interruptEntry s = .next t ↔
      ∃ u, pushWord s.pc s = .next u ∧
        t = setAB 2#16 2#16
          { u with pc := interruptEntryAddress, pending := false,
                   hid := { u.hid with counter := 0, mode := .interrupt } } := by
  simp only [interruptEntry, andThen_eq_next, Host.Outcome.next.injEq, @eq_comm _ t]

/-! ### The shapes of a meaning -/

theorem conditionally_holds (cond : Cond) (f : Form) (s : State) (body : State → Result State)
    (h : condHolds cond s.flags = true) : conditionally cond f s body = body s := by simp [conditionally, h]

theorem conditionally_fails (cond : Cond) (f : Form) (s : State) (body : State → Result State)
    (h : condHolds cond s.flags = false) : conditionally cond f s body = .next (passOver f s) := by
  simp [conditionally, h]

/-- An instruction either runs its body, under its condition, or is passed over. -/
theorem conditionally_eq_next (cond : Cond) (f : Form) (s : State) (body : State → Result State) (t : State) :
    conditionally cond f s body = .next t ↔
      (condHolds cond s.flags = true ∧ body s = .next t) ∨
      (condHolds cond s.flags = false ∧ t = passOver f s) := by
  cases h : condHolds cond s.flags <;> simp [conditionally, h, eq_comm]

theorem withLong_next (s : State) (body : Word → State → Result State) (imm : Word)
    (h : readWord s.pc s = .next imm) :
    withLong s body = body imm (setAB (highPart imm) (lowPart imm) (setPc (s.pc + 2#16) s)) := by
  simp [withLong, h]

theorem withLong_eq_next (s : State) (body : Word → State → Result State) (t : State) :
    withLong s body = .next t ↔
      ∃ imm, readWord s.pc s = .next imm ∧
        body imm (setAB (highPart imm) (lowPart imm) (setPc (s.pc + 2#16) s)) = .next t := by
  simp only [withLong, andThen_eq_next]

theorem withLongLowByte_next (s : State) (body : Byte → State → Result State) (lo : Byte)
    (h : readByte s.pc s = .next lo) : withLongLowByte s body = body lo (setPc (s.pc + 2#16) s) := by
  simp [withLongLowByte, h]

theorem withLongLowByte_eq_next (s : State) (body : Byte → State → Result State) (t : State) :
    withLongLowByte s body = .next t ↔
      ∃ lo, readByte s.pc s = .next lo ∧ body lo (setPc (s.pc + 2#16) s) = .next t := by
  simp only [withLongLowByte, andThen_eq_next]

theorem twoOperand_eq (alu : Word → Word → Flags → AluOut) (rd : Reg) (src : Word) (s : State) :
    twoOperand alu rd src s =
      .next (setAB (readReg rd s) src (setFlags (alu (readReg rd s) src s.flags).flags
        (writeReg rd (alu (readReg rd s) src s.flags).value s))) := rfl

theorem step_pending (s : State) (h : s.pending = true) : step s = interruptEntry s := by simp [step, h]

theorem step_running (s : State) (h : s.pending = false) :
    step s = andThen (fetch s) fun fetched => exec fetched.1 fetched.2 := by simp [step, h]

end Sys2Proof.Machine
end

