-- ==== Sys2Proof/Laws/Meanings.lean ====
section
/-! SUPPORT. Which meaning `exec` calls for each constructor: the first step of a proof about an instruction, before its
meaning is unfolded by name. -/

namespace Sys2Proof.Machine

theorem exec_ldReg (cond : Cond) (rd rs : Reg) (s : State) :
    exec (.ldReg cond rd rs) s = execLdReg cond rd rs s := rfl
theorem exec_ldShort (cond : Cond) (rd : Reg) (imm : BitVec 3) (s : State) :
    exec (.ldShort cond rd imm) s = execLdShort cond rd imm s := rfl
theorem exec_ldLong (cond : Cond) (rd : Reg) (s : State) :
    exec (.ldLong cond rd) s = execLdLong cond rd s := rfl
theorem exec_ldiReg (cond : Cond) (rd rs : Reg) (s : State) :
    exec (.ldiReg cond rd rs) s = execLdiReg cond rd rs s := rfl
theorem exec_ldiLong (cond : Cond) (rd : Reg) (s : State) :
    exec (.ldiLong cond rd) s = execLdiLong cond rd s := rfl
theorem exec_ldiReserved (cond : Cond) (rd : Reg) (src : BitVec 3) (s : State) :
    exec (.ldiReserved cond rd src) s = execLdiReserved s := rfl
theorem exec_stiByte (cond : Cond) (rd rs : Reg) (s : State) :
    exec (.stiByte cond rd rs) s = execStiByte cond rd rs s := rfl
theorem exec_stiWord (cond : Cond) (rd rs : Reg) (s : State) :
    exec (.stiWord cond rd rs) s = execStiWord cond rd rs s := rfl
theorem exec_negReg (cond : Cond) (rd rs : Reg) (s : State) :
    exec (.negReg cond rd rs) s = execNegReg cond rd rs s := rfl
theorem exec_negShort (cond : Cond) (rd : Reg) (imm : BitVec 3) (s : State) :
    exec (.negShort cond rd imm) s = execNegShort cond rd imm s := rfl
theorem exec_negLong (cond : Cond) (rd : Reg) (s : State) :
    exec (.negLong cond rd) s = execNegLong cond rd s := rfl
theorem exec_sexReg (cond : Cond) (rd rs : Reg) (s : State) :
    exec (.sexReg cond rd rs) s = execSexReg cond rd rs s := rfl
theorem exec_sexShort (cond : Cond) (rd : Reg) (imm : BitVec 3) (s : State) :
    exec (.sexShort cond rd imm) s = execSexShort cond rd imm s := rfl
theorem exec_sexLong (cond : Cond) (rd : Reg) (s : State) :
    exec (.sexLong cond rd) s = execSexLong cond rd s := rfl
theorem exec_offsReg (cond : Cond) (rd rs : Reg) (s : State) :
    exec (.offsReg cond rd rs) s = execOffsReg cond rd rs s := rfl
theorem exec_offsShort (cond : Cond) (rd : Reg) (imm : BitVec 3) (s : State) :
    exec (.offsShort cond rd imm) s = execOffsShort cond rd imm s := rfl
theorem exec_offsLong (cond : Cond) (rd : Reg) (s : State) :
    exec (.offsLong cond rd) s = execOffsLong cond rd s := rfl
theorem exec_cmpReg (cond : Cond) (rd rs : Reg) (s : State) :
    exec (.cmpReg cond rd rs) s = execCmpReg cond rd rs s := rfl
theorem exec_cmpShort (cond : Cond) (rd : Reg) (imm : BitVec 3) (s : State) :
    exec (.cmpShort cond rd imm) s = execCmpShort cond rd imm s := rfl
theorem exec_cmpLong (cond : Cond) (rd : Reg) (s : State) :
    exec (.cmpLong cond rd) s = execCmpLong cond rd s := rfl
theorem exec_xcg (cond : Cond) (rd rs : Reg) (s : State) :
    exec (.xcg cond rd rs) s = execXcg cond rd rs s := rfl
theorem exec_xcgReserved (cond : Cond) (rd : Reg) (src : BitVec 3) (s : State) :
    exec (.xcgReserved cond rd src) s = execXcgReserved s := rfl
theorem exec_clzReg (cond : Cond) (rd rs : Reg) (s : State) :
    exec (.clzReg cond rd rs) s = execClzReg cond rd rs s := rfl
theorem exec_clzShort (cond : Cond) (rd : Reg) (imm : BitVec 3) (s : State) :
    exec (.clzShort cond rd imm) s = execClzShort cond rd imm s := rfl
theorem exec_clzLong (cond : Cond) (rd : Reg) (s : State) :
    exec (.clzLong cond rd) s = execClzLong cond rd s := rfl
theorem exec_ctzReg (cond : Cond) (rd rs : Reg) (s : State) :
    exec (.ctzReg cond rd rs) s = execCtzReg cond rd rs s := rfl
theorem exec_ctzShort (cond : Cond) (rd : Reg) (imm : BitVec 3) (s : State) :
    exec (.ctzShort cond rd imm) s = execCtzShort cond rd imm s := rfl
theorem exec_ctzLong (cond : Cond) (rd : Reg) (s : State) :
    exec (.ctzLong cond rd) s = execCtzLong cond rd s := rfl
theorem exec_cbsReg (cond : Cond) (rd rs : Reg) (s : State) :
    exec (.cbsReg cond rd rs) s = execCbsReg cond rd rs s := rfl
theorem exec_cbsShort (cond : Cond) (rd : Reg) (imm : BitVec 3) (s : State) :
    exec (.cbsShort cond rd imm) s = execCbsShort cond rd imm s := rfl
theorem exec_cbsLong (cond : Cond) (rd : Reg) (s : State) :
    exec (.cbsLong cond rd) s = execCbsLong cond rd s := rfl
theorem exec_flgReg (cond : Cond) (rd rs : Reg) (s : State) :
    exec (.flgReg cond rd rs) s = execFlgReg cond rd rs s := rfl
theorem exec_flgLong (cond : Cond) (rd : Reg) (s : State) :
    exec (.flgLong cond rd) s = execFlgLong cond rd s := rfl
theorem exec_flgReserved (cond : Cond) (rd : Reg) (src : BitVec 3) (s : State) :
    exec (.flgReserved cond rd src) s = execFlgReserved s := rfl
theorem exec_push (cond : Cond) (rs : Reg) (s : State) :
    exec (.push cond rs) s = execPush cond rs s := rfl
theorem exec_pushReserved (cond : Cond) (rd : Reg) (src : BitVec 3) (s : State) :
    exec (.pushReserved cond rd src) s = execPushReserved s := rfl
theorem exec_pop (cond : Cond) (rd : Reg) (s : State) :
    exec (.pop cond rd) s = execPop cond rd s := rfl
theorem exec_popReserved (cond : Cond) (rd : Reg) (src : BitVec 3) (s : State) :
    exec (.popReserved cond rd src) s = execPopReserved s := rfl
theorem exec_jReg (cond : Cond) (rs : Reg) (s : State) :
    exec (.jReg cond rs) s = execJReg cond rs s := rfl
theorem exec_jLong (cond : Cond) (s : State) :
    exec (.jLong cond) s = execJLong cond s := rfl
theorem exec_jReserved (cond : Cond) (rd : Reg) (src : BitVec 3) (s : State) :
    exec (.jReserved cond rd src) s = execJReserved s := rfl
theorem exec_callReg (cond : Cond) (rs : Reg) (s : State) :
    exec (.callReg cond rs) s = execCallReg cond rs s := rfl
theorem exec_callLong (cond : Cond) (s : State) :
    exec (.callLong cond) s = execCallLong cond s := rfl
theorem exec_callReserved (cond : Cond) (rd : Reg) (src : BitVec 3) (s : State) :
    exec (.callReserved cond rd src) s = execCallReserved s := rfl
theorem exec_andReg (cond : Cond) (rd rs : Reg) (s : State) :
    exec (.andReg cond rd rs) s = execAndReg cond rd rs s := rfl
theorem exec_andShort (cond : Cond) (rd : Reg) (imm : BitVec 3) (s : State) :
    exec (.andShort cond rd imm) s = execAndShort cond rd imm s := rfl
theorem exec_andLong (cond : Cond) (rd : Reg) (s : State) :
    exec (.andLong cond rd) s = execAndLong cond rd s := rfl
theorem exec_orReg (cond : Cond) (rd rs : Reg) (s : State) :
    exec (.orReg cond rd rs) s = execOrReg cond rd rs s := rfl
theorem exec_orShort (cond : Cond) (rd : Reg) (imm : BitVec 3) (s : State) :
    exec (.orShort cond rd imm) s = execOrShort cond rd imm s := rfl
theorem exec_orLong (cond : Cond) (rd : Reg) (s : State) :
    exec (.orLong cond rd) s = execOrLong cond rd s := rfl
theorem exec_xorReg (cond : Cond) (rd rs : Reg) (s : State) :
    exec (.xorReg cond rd rs) s = execXorReg cond rd rs s := rfl
theorem exec_xorShort (cond : Cond) (rd : Reg) (imm : BitVec 3) (s : State) :
    exec (.xorShort cond rd imm) s = execXorShort cond rd imm s := rfl
theorem exec_xorLong (cond : Cond) (rd : Reg) (s : State) :
    exec (.xorLong cond rd) s = execXorLong cond rd s := rfl
theorem exec_notReg (cond : Cond) (rd rs : Reg) (s : State) :
    exec (.notReg cond rd rs) s = execNotReg cond rd rs s := rfl
theorem exec_notShort (cond : Cond) (rd : Reg) (imm : BitVec 3) (s : State) :
    exec (.notShort cond rd imm) s = execNotShort cond rd imm s := rfl
theorem exec_notLong (cond : Cond) (rd : Reg) (s : State) :
    exec (.notLong cond rd) s = execNotLong cond rd s := rfl
theorem exec_addReg (cond : Cond) (rd rs : Reg) (s : State) :
    exec (.addReg cond rd rs) s = execAddReg cond rd rs s := rfl
theorem exec_addShort (cond : Cond) (rd : Reg) (imm : BitVec 3) (s : State) :
    exec (.addShort cond rd imm) s = execAddShort cond rd imm s := rfl
theorem exec_addLong (cond : Cond) (rd : Reg) (s : State) :
    exec (.addLong cond rd) s = execAddLong cond rd s := rfl
theorem exec_adcReg (cond : Cond) (rd rs : Reg) (s : State) :
    exec (.adcReg cond rd rs) s = execAdcReg cond rd rs s := rfl
theorem exec_adcShort (cond : Cond) (rd : Reg) (imm : BitVec 3) (s : State) :
    exec (.adcShort cond rd imm) s = execAdcShort cond rd imm s := rfl
theorem exec_adcLong (cond : Cond) (rd : Reg) (s : State) :
    exec (.adcLong cond rd) s = execAdcLong cond rd s := rfl
theorem exec_subReg (cond : Cond) (rd rs : Reg) (s : State) :
    exec (.subReg cond rd rs) s = execSubReg cond rd rs s := rfl
theorem exec_subShort (cond : Cond) (rd : Reg) (imm : BitVec 3) (s : State) :
    exec (.subShort cond rd imm) s = execSubShort cond rd imm s := rfl
theorem exec_subLong (cond : Cond) (rd : Reg) (s : State) :
    exec (.subLong cond rd) s = execSubLong cond rd s := rfl
theorem exec_sbcReg (cond : Cond) (rd rs : Reg) (s : State) :
    exec (.sbcReg cond rd rs) s = execSbcReg cond rd rs s := rfl
theorem exec_sbcShort (cond : Cond) (rd : Reg) (imm : BitVec 3) (s : State) :
    exec (.sbcShort cond rd imm) s = execSbcShort cond rd imm s := rfl
theorem exec_sbcLong (cond : Cond) (rd : Reg) (s : State) :
    exec (.sbcLong cond rd) s = execSbcLong cond rd s := rfl
theorem exec_rorReg (cond : Cond) (rd rs : Reg) (s : State) :
    exec (.rorReg cond rd rs) s = execRorReg cond rd rs s := rfl
theorem exec_rorShort (cond : Cond) (rd : Reg) (imm : BitVec 3) (s : State) :
    exec (.rorShort cond rd imm) s = execRorShort cond rd imm s := rfl
theorem exec_rorLong (cond : Cond) (rd : Reg) (s : State) :
    exec (.rorLong cond rd) s = execRorLong cond rd s := rfl
theorem exec_rolReg (cond : Cond) (rd rs : Reg) (s : State) :
    exec (.rolReg cond rd rs) s = execRolReg cond rd rs s := rfl
theorem exec_rolShort (cond : Cond) (rd : Reg) (imm : BitVec 3) (s : State) :
    exec (.rolShort cond rd imm) s = execRolShort cond rd imm s := rfl
theorem exec_rolLong (cond : Cond) (rd : Reg) (s : State) :
    exec (.rolLong cond rd) s = execRolLong cond rd s := rfl
theorem exec_rrcReg (cond : Cond) (rd rs : Reg) (s : State) :
    exec (.rrcReg cond rd rs) s = execRrcReg cond rd rs s := rfl
theorem exec_rrcShort (cond : Cond) (rd : Reg) (imm : BitVec 3) (s : State) :
    exec (.rrcShort cond rd imm) s = execRrcShort cond rd imm s := rfl
theorem exec_rrcLong (cond : Cond) (rd : Reg) (s : State) :
    exec (.rrcLong cond rd) s = execRrcLong cond rd s := rfl
theorem exec_rlcReg (cond : Cond) (rd rs : Reg) (s : State) :
    exec (.rlcReg cond rd rs) s = execRlcReg cond rd rs s := rfl
theorem exec_rlcShort (cond : Cond) (rd : Reg) (imm : BitVec 3) (s : State) :
    exec (.rlcShort cond rd imm) s = execRlcShort cond rd imm s := rfl
theorem exec_rlcLong (cond : Cond) (rd : Reg) (s : State) :
    exec (.rlcLong cond rd) s = execRlcLong cond rd s := rfl
theorem exec_lsrReg (cond : Cond) (rd rs : Reg) (s : State) :
    exec (.lsrReg cond rd rs) s = execLsrReg cond rd rs s := rfl
theorem exec_lsrShort (cond : Cond) (rd : Reg) (imm : BitVec 3) (s : State) :
    exec (.lsrShort cond rd imm) s = execLsrShort cond rd imm s := rfl
theorem exec_lsrLong (cond : Cond) (rd : Reg) (s : State) :
    exec (.lsrLong cond rd) s = execLsrLong cond rd s := rfl
theorem exec_lslReg (cond : Cond) (rd rs : Reg) (s : State) :
    exec (.lslReg cond rd rs) s = execLslReg cond rd rs s := rfl
theorem exec_lslShort (cond : Cond) (rd : Reg) (imm : BitVec 3) (s : State) :
    exec (.lslShort cond rd imm) s = execLslShort cond rd imm s := rfl
theorem exec_lslLong (cond : Cond) (rd : Reg) (s : State) :
    exec (.lslLong cond rd) s = execLslLong cond rd s := rfl
theorem exec_asrReg (cond : Cond) (rd rs : Reg) (s : State) :
    exec (.asrReg cond rd rs) s = execAsrReg cond rd rs s := rfl
theorem exec_asrShort (cond : Cond) (rd : Reg) (imm : BitVec 3) (s : State) :
    exec (.asrShort cond rd imm) s = execAsrShort cond rd imm s := rfl
theorem exec_asrLong (cond : Cond) (rd : Reg) (s : State) :
    exec (.asrLong cond rd) s = execAsrLong cond rd s := rfl
theorem exec_ret (cond : Cond) (s : State) :
    exec (.ret cond) s = execRet cond s := rfl
theorem exec_retReserved (cond : Cond) (rd : Reg) (src : BitVec 3) (s : State) :
    exec (.retReserved cond rd src) s = execRetReserved s := rfl

/-- How many bytes follow the instruction word of an instruction. -/
def formOf (i : Instr) : Form := if i.isLong then .long else .twoByte

/-- Every instruction but the reserved forms is executed under its own condition (R85). -/
theorem exec_conditionally (i : Instr) (h : i.isReserved = false) :
    ∃ body : State → Result State, ∀ s : State, exec i s = conditionally i.cond (formOf i) s body := by
  cases i <;> first
    | exact ⟨_, fun _ => rfl⟩
    | cases h

theorem exec_reserved (i : Instr) (s : State) (h : i.isReserved = true) : exec i s = .refused .reservedForm := by
  cases i <;> first
    | rfl
    | cases h

/-- An instruction whose condition fails is passed over. -/
theorem exec_passOver (i : Instr) (s : State) (h : i.isReserved = false) (hc : condHolds i.cond s.flags = false) :
    exec i s = .next (passOver (formOf i) s) := by
  obtain ⟨body, hb⟩ := exec_conditionally i h
  rw [hb s, conditionally_fails _ _ _ _ hc]

end Sys2Proof.Machine
end

