-- ==== Sys2Proof/Laws/Micro.lean ====
section
/-! SUPPORT. What the standard microcode contains, and what the micro-level machine does with a control word. -/

namespace Sys2Proof.Machine

theorem mem_opcodes (o : Opcode) : o ∈ opcodes := by cases o <;> decide
theorem mem_modes (m : Mode) : m ∈ modes := by cases m <;> decide

/-- A micro-operation is standard exactly when some listing holds it. -/
theorem standard_iff (u : MicroOp) :
    u.standard = true ↔ ∃ (o : Opcode) (m : Mode) (ops : List MicroOp), listing o m = some ops ∧ u ∈ ops := by
  simp [MicroOp.standard, mem_opcodes, mem_modes, Option.any_eq_true]

theorem standard_of_listing (o : Opcode) (m : Mode) (ops : List MicroOp) (u : MicroOp) (h : listing o m = some ops)
    (hu : u ∈ ops) : u.standard = true := (standard_iff u).2 ⟨o, m, ops, h, hu⟩

/-- No listing holds a combination that U23 names. -/
theorem standard_admissible (u : MicroOp) (h : u.standard = true) : u.admissible = true := by
  obtain ⟨o, m, ops, hl, hu⟩ := (standard_iff u).1 h
  clear h
  revert u
  cases o <;> cases m <;> simp only [listing, listingShort, listingLong, Option.some.injEq, reduceCtorEq] at hl <;>
    subst hl <;> decide

/-- All that the control store holds: the word that ends an instruction, and the words of the listings. -/
theorem controlStore_eq_some (o : Opcode) (m : Mode) (state : Nat) (w : ControlWord)
    (h : controlStore o m state = some w) : w = 0 ∨ ∃ u : MicroOp, u.standard = true ∧ u.encode = w := by
  unfold controlStore at h
  split at h
  · cases h
  · split at h <;> cases h
    · exact .inr ⟨_, standard_of_listing o m _ _ ‹_› (List.mem_of_getElem? ‹_›), rfl⟩
    · exact .inl rfl

/-- A control word of the standard microcode is performed. -/
theorem runWord_standard (w : ControlWord) (u : MicroOp) (s : State) (hw : w ≠ 0) (hd : decodeControl w = some u)
    (hu : u.standard = true) : runWord w s = perform u s := by
  rw [runWord, if_neg hw, hd]
  exact if_pos hu

/-- All that a control word can do: end the instruction, or perform a micro-operation of the standard microcode. -/
theorem runWord_eq_next (w : ControlWord) (s t : State) :
    runWord w s = .next t ↔
      (w = 0 ∧ t = { s with hid := { s.hid with counter := 0 } }) ∨
      (w ≠ 0 ∧ ∃ u : MicroOp, decodeControl w = some u ∧ u.standard = true ∧ perform u s = .next t) := by
  unfold runWord
  by_cases hw : w = 0
  · subst hw
    rw [if_pos rfl]
    exact ⟨fun h => .inl ⟨rfl, (Host.Outcome.next.inj h).symm⟩,
      fun h => h.elim (fun h => congrArg _ h.2.symm) fun h => absurd rfl h.1⟩
  · rw [if_neg hw]
    refine ⟨fun h => .inr ⟨hw, ?_⟩, fun h => h.elim (fun h => absurd h.1 hw) fun ⟨_, u, hd, hu, h⟩ => ?_⟩
    · split at h
      · cases h
      · split at h
        · exact ⟨_, ‹_›, ‹_›, h⟩
        · cases h
    · rw [hd]
      exact (if_pos hu).trans h

end Sys2Proof.Machine
end

