-- ==== Sys2Proof/Laws/PerInstr.lean ====
section
/-! SUPPORT. Statements about every instruction as syntax, made constructor by constructor. -/

namespace Sys2Proof.Laws.EncodedLength

/-- The length a decoder tells from the instruction word (R98) is the length of the form that was encoded. -/
def Statement (i : Instr) : Prop := i.wellFormed = true → isLongWord (encodeWord i) = i.isLong

/-- The rule of R98 on the five fields. -/
theorem isLongWord_packFields (f : Fields) :
    isLongWord (packFields f) = (f.m && f.opcode.hasLong && f.source == longMarker f.opcode) := by
  simp [isLongWord, modeBit_packFields, opcodeOf_packFields, sourceField_packFields]

/-- A register form is two bytes long. -/
theorem of_register (i : Instr) (hm : i.fields.m = false) (hl : i.isLong = false) : Statement i := by
  intro _
  simp [encodeWord, isLongWord_packFields, hm, hl]

/-- A form of an opcode without a long form is two bytes long. -/
theorem of_noLong (i : Instr) (ho : i.fields.opcode.hasLong = false) (hl : i.isLong = false) : Statement i := by
  intro _
  simp [encodeWord, isLongWord_packFields, ho, hl]

/-- A form with the long marker of its opcode is four bytes long. -/
theorem of_long (i : Instr) (hm : i.fields.m = true) (ho : i.fields.opcode.hasLong = true)
    (hs : i.fields.source = longMarker i.fields.opcode) (hl : i.isLong = true) : Statement i := by
  intro _
  simp [encodeWord, isLongWord_packFields, hm, ho, hs, hl]

/-- A form whose source field is not the long marker is two bytes long. -/
theorem of_notMarker (i : Instr) (hs : i.wellFormed = (i.fields.source != longMarker i.fields.opcode))
    (hl : i.isLong = false) : Statement i := by
  intro hw
  rw [hs] at hw
  have hne : (i.fields.source == longMarker i.fields.opcode) = false := by
    simpa [bne] using hw
  simp [encodeWord, isLongWord_packFields, hne, hl]

theorem ldReg (cond : Cond) (rd rs : Reg) : Statement (.ldReg cond rd rs) := of_register _ rfl rfl
theorem ldShort (cond : Cond) (rd : Reg) (imm : BitVec 3) : Statement (.ldShort cond rd imm) := of_notMarker _ rfl rfl
theorem ldLong (cond : Cond) (rd : Reg) : Statement (.ldLong cond rd) := of_long _ rfl rfl rfl rfl
theorem ldiReg (cond : Cond) (rd rs : Reg) : Statement (.ldiReg cond rd rs) := of_register _ rfl rfl
theorem ldiLong (cond : Cond) (rd : Reg) : Statement (.ldiLong cond rd) := of_long _ rfl rfl rfl rfl
theorem ldiReserved (cond : Cond) (rd : Reg) (src : BitVec 3) : Statement (.ldiReserved cond rd src) := of_notMarker _ rfl rfl
theorem stiByte (cond : Cond) (rd rs : Reg) : Statement (.stiByte cond rd rs) := of_register _ rfl rfl
theorem stiWord (cond : Cond) (rd rs : Reg) : Statement (.stiWord cond rd rs) := of_noLong _ rfl rfl
theorem negReg (cond : Cond) (rd rs : Reg) : Statement (.negReg cond rd rs) := of_register _ rfl rfl
theorem negShort (cond : Cond) (rd : Reg) (imm : BitVec 3) : Statement (.negShort cond rd imm) := of_notMarker _ rfl rfl
theorem negLong (cond : Cond) (rd : Reg) : Statement (.negLong cond rd) := of_long _ rfl rfl rfl rfl
theorem sexReg (cond : Cond) (rd rs : Reg) : Statement (.sexReg cond rd rs) := of_register _ rfl rfl
theorem sexShort (cond : Cond) (rd : Reg) (imm : BitVec 3) : Statement (.sexShort cond rd imm) := of_notMarker _ rfl rfl
theorem sexLong (cond : Cond) (rd : Reg) : Statement (.sexLong cond rd) := of_long _ rfl rfl rfl rfl
theorem offsReg (cond : Cond) (rd rs : Reg) : Statement (.offsReg cond rd rs) := of_register _ rfl rfl
theorem offsShort (cond : Cond) (rd : Reg) (imm : BitVec 3) : Statement (.offsShort cond rd imm) := of_notMarker _ rfl rfl
theorem offsLong (cond : Cond) (rd : Reg) : Statement (.offsLong cond rd) := of_long _ rfl rfl rfl rfl
theorem cmpReg (cond : Cond) (rd rs : Reg) : Statement (.cmpReg cond rd rs) := of_register _ rfl rfl
theorem cmpShort (cond : Cond) (rd : Reg) (imm : BitVec 3) : Statement (.cmpShort cond rd imm) := of_notMarker _ rfl rfl
theorem cmpLong (cond : Cond) (rd : Reg) : Statement (.cmpLong cond rd) := of_long _ rfl rfl rfl rfl
theorem xcg (cond : Cond) (rd rs : Reg) : Statement (.xcg cond rd rs) := of_register _ rfl rfl
theorem xcgReserved (cond : Cond) (rd : Reg) (src : BitVec 3) : Statement (.xcgReserved cond rd src) := of_noLong _ rfl rfl
theorem clzReg (cond : Cond) (rd rs : Reg) : Statement (.clzReg cond rd rs) := of_register _ rfl rfl
theorem clzShort (cond : Cond) (rd : Reg) (imm : BitVec 3) : Statement (.clzShort cond rd imm) := of_notMarker _ rfl rfl
theorem clzLong (cond : Cond) (rd : Reg) : Statement (.clzLong cond rd) := of_long _ rfl rfl rfl rfl
theorem ctzReg (cond : Cond) (rd rs : Reg) : Statement (.ctzReg cond rd rs) := of_register _ rfl rfl
theorem ctzShort (cond : Cond) (rd : Reg) (imm : BitVec 3) : Statement (.ctzShort cond rd imm) := of_notMarker _ rfl rfl
theorem ctzLong (cond : Cond) (rd : Reg) : Statement (.ctzLong cond rd) := of_long _ rfl rfl rfl rfl
theorem cbsReg (cond : Cond) (rd rs : Reg) : Statement (.cbsReg cond rd rs) := of_register _ rfl rfl
theorem cbsShort (cond : Cond) (rd : Reg) (imm : BitVec 3) : Statement (.cbsShort cond rd imm) := of_notMarker _ rfl rfl
theorem cbsLong (cond : Cond) (rd : Reg) : Statement (.cbsLong cond rd) := of_long _ rfl rfl rfl rfl
theorem flgReg (cond : Cond) (rd rs : Reg) : Statement (.flgReg cond rd rs) := of_register _ rfl rfl
theorem flgLong (cond : Cond) (rd : Reg) : Statement (.flgLong cond rd) := of_long _ rfl rfl rfl rfl
theorem flgReserved (cond : Cond) (rd : Reg) (src : BitVec 3) : Statement (.flgReserved cond rd src) := of_notMarker _ rfl rfl
theorem push (cond : Cond) (rs : Reg) : Statement (.push cond rs) := of_register _ rfl rfl
theorem pushReserved (cond : Cond) (rd : Reg) (src : BitVec 3) : Statement (.pushReserved cond rd src) := of_noLong _ rfl rfl
theorem pop (cond : Cond) (rd : Reg) : Statement (.pop cond rd) := of_register _ rfl rfl
theorem popReserved (cond : Cond) (rd : Reg) (src : BitVec 3) : Statement (.popReserved cond rd src) := of_noLong _ rfl rfl
theorem jReg (cond : Cond) (rs : Reg) : Statement (.jReg cond rs) := of_register _ rfl rfl
theorem jLong (cond : Cond) : Statement (.jLong cond) := of_long _ rfl rfl rfl rfl
theorem jReserved (cond : Cond) (rd : Reg) (src : BitVec 3) : Statement (.jReserved cond rd src) := of_notMarker _ rfl rfl
theorem callReg (cond : Cond) (rs : Reg) : Statement (.callReg cond rs) := of_register _ rfl rfl
theorem callLong (cond : Cond) : Statement (.callLong cond) := of_long _ rfl rfl rfl rfl
theorem callReserved (cond : Cond) (rd : Reg) (src : BitVec 3) : Statement (.callReserved cond rd src) := of_notMarker _ rfl rfl
theorem andReg (cond : Cond) (rd rs : Reg) : Statement (.andReg cond rd rs) := of_register _ rfl rfl
theorem andShort (cond : Cond) (rd : Reg) (imm : BitVec 3) : Statement (.andShort cond rd imm) := of_notMarker _ rfl rfl
theorem andLong (cond : Cond) (rd : Reg) : Statement (.andLong cond rd) := of_long _ rfl rfl rfl rfl
theorem orReg (cond : Cond) (rd rs : Reg) : Statement (.orReg cond rd rs) := of_register _ rfl rfl
theorem orShort (cond : Cond) (rd : Reg) (imm : BitVec 3) : Statement (.orShort cond rd imm) := of_notMarker _ rfl rfl
theorem orLong (cond : Cond) (rd : Reg) : Statement (.orLong cond rd) := of_long _ rfl rfl rfl rfl
theorem xorReg (cond : Cond) (rd rs : Reg) : Statement (.xorReg cond rd rs) := of_register _ rfl rfl
theorem xorShort (cond : Cond) (rd : Reg) (imm : BitVec 3) : Statement (.xorShort cond rd imm) := of_notMarker _ rfl rfl
theorem xorLong (cond : Cond) (rd : Reg) : Statement (.xorLong cond rd) := of_long _ rfl rfl rfl rfl
theorem notReg (cond : Cond) (rd rs : Reg) : Statement (.notReg cond rd rs) := of_register _ rfl rfl
theorem notShort (cond : Cond) (rd : Reg) (imm : BitVec 3) : Statement (.notShort cond rd imm) := of_notMarker _ rfl rfl
theorem notLong (cond : Cond) (rd : Reg) : Statement (.notLong cond rd) := of_long _ rfl rfl rfl rfl
theorem addReg (cond : Cond) (rd rs : Reg) : Statement (.addReg cond rd rs) := of_register _ rfl rfl
theorem addShort (cond : Cond) (rd : Reg) (imm : BitVec 3) : Statement (.addShort cond rd imm) := of_notMarker _ rfl rfl
theorem addLong (cond : Cond) (rd : Reg) : Statement (.addLong cond rd) := of_long _ rfl rfl rfl rfl
theorem adcReg (cond : Cond) (rd rs : Reg) : Statement (.adcReg cond rd rs) := of_register _ rfl rfl
theorem adcShort (cond : Cond) (rd : Reg) (imm : BitVec 3) : Statement (.adcShort cond rd imm) := of_notMarker _ rfl rfl
theorem adcLong (cond : Cond) (rd : Reg) : Statement (.adcLong cond rd) := of_long _ rfl rfl rfl rfl
theorem subReg (cond : Cond) (rd rs : Reg) : Statement (.subReg cond rd rs) := of_register _ rfl rfl
theorem subShort (cond : Cond) (rd : Reg) (imm : BitVec 3) : Statement (.subShort cond rd imm) := of_notMarker _ rfl rfl
theorem subLong (cond : Cond) (rd : Reg) : Statement (.subLong cond rd) := of_long _ rfl rfl rfl rfl
theorem sbcReg (cond : Cond) (rd rs : Reg) : Statement (.sbcReg cond rd rs) := of_register _ rfl rfl
theorem sbcShort (cond : Cond) (rd : Reg) (imm : BitVec 3) : Statement (.sbcShort cond rd imm) := of_notMarker _ rfl rfl
theorem sbcLong (cond : Cond) (rd : Reg) : Statement (.sbcLong cond rd) := of_long _ rfl rfl rfl rfl
theorem rorReg (cond : Cond) (rd rs : Reg) : Statement (.rorReg cond rd rs) := of_register _ rfl rfl
theorem rorShort (cond : Cond) (rd : Reg) (imm : BitVec 3) : Statement (.rorShort cond rd imm) := of_notMarker _ rfl rfl
theorem rorLong (cond : Cond) (rd : Reg) : Statement (.rorLong cond rd) := of_long _ rfl rfl rfl rfl
theorem rolReg (cond : Cond) (rd rs : Reg) : Statement (.rolReg cond rd rs) := of_register _ rfl rfl
theorem rolShort (cond : Cond) (rd : Reg) (imm : BitVec 3) : Statement (.rolShort cond rd imm) := of_notMarker _ rfl rfl
theorem rolLong (cond : Cond) (rd : Reg) : Statement (.rolLong cond rd) := of_long _ rfl rfl rfl rfl
theorem rrcReg (cond : Cond) (rd rs : Reg) : Statement (.rrcReg cond rd rs) := of_register _ rfl rfl
theorem rrcShort (cond : Cond) (rd : Reg) (imm : BitVec 3) : Statement (.rrcShort cond rd imm) := of_notMarker _ rfl rfl
theorem rrcLong (cond : Cond) (rd : Reg) : Statement (.rrcLong cond rd) := of_long _ rfl rfl rfl rfl
theorem rlcReg (cond : Cond) (rd rs : Reg) : Statement (.rlcReg cond rd rs) := of_register _ rfl rfl
theorem rlcShort (cond : Cond) (rd : Reg) (imm : BitVec 3) : Statement (.rlcShort cond rd imm) := of_notMarker _ rfl rfl
theorem rlcLong (cond : Cond) (rd : Reg) : Statement (.rlcLong cond rd) := of_long _ rfl rfl rfl rfl
theorem lsrReg (cond : Cond) (rd rs : Reg) : Statement (.lsrReg cond rd rs) := of_register _ rfl rfl
theorem lsrShort (cond : Cond) (rd : Reg) (imm : BitVec 3) : Statement (.lsrShort cond rd imm) := of_notMarker _ rfl rfl
theorem lsrLong (cond : Cond) (rd : Reg) : Statement (.lsrLong cond rd) := of_long _ rfl rfl rfl rfl
theorem lslReg (cond : Cond) (rd rs : Reg) : Statement (.lslReg cond rd rs) := of_register _ rfl rfl
theorem lslShort (cond : Cond) (rd : Reg) (imm : BitVec 3) : Statement (.lslShort cond rd imm) := of_notMarker _ rfl rfl
theorem lslLong (cond : Cond) (rd : Reg) : Statement (.lslLong cond rd) := of_long _ rfl rfl rfl rfl
theorem asrReg (cond : Cond) (rd rs : Reg) : Statement (.asrReg cond rd rs) := of_register _ rfl rfl
theorem asrShort (cond : Cond) (rd : Reg) (imm : BitVec 3) : Statement (.asrShort cond rd imm) := of_notMarker _ rfl rfl
theorem asrLong (cond : Cond) (rd : Reg) : Statement (.asrLong cond rd) := of_long _ rfl rfl rfl rfl
theorem ret (cond : Cond) : Statement (.ret cond) := of_register _ rfl rfl
theorem retReserved (cond : Cond) (rd : Reg) (src : BitVec 3) : Statement (.retReserved cond rd src) := of_noLong _ rfl rfl

end Sys2Proof.Laws.EncodedLength
end

