-- ==== Sys2Proof/Tests/Slice0.lean ====
section
/-! SUPPORT. Tests: each is a named theorem that Lean's kernel evaluates. Expected values are worked from the encoding
figures (spec/30_encoding.md R93, spec/opcode_table.json) and from the spec's vectors (spec/95_test_vectors.md), not
from the model. -/

namespace Sys2Proof.Tests

open Sys2Proof.Machine

/-! ### Helpers -/

/-- A machine of RAM about to execute `code` at `pc`. -/
def machine (pc : Word) (code : List Byte) (regs : List (Reg × Word)) (flags : BitVec 4)
    (data : List (Word × List Byte)) : State :=
  let s := launch Platform.standard ((pc, code) :: data)
  { s with
    pc := pc
    flags := Flags.ofNibble flags
    regs := regs.foldl (fun f p => f.set p.1 p.2) s.regs }

/-- Some registers, the flags, pc and some bytes of memory of the next state. -/
def after (r : Result State) (regs : List Reg) (bytes : List Word) :
    Option (List Word × BitVec 4 × Word × List (Option Byte)) :=
  match r with
  | .next t => some (regs.map fun q => readReg q t, t.flags.toNibble, t.pc, bytes.map fun a => byteAt t a)
  | .fault _ | .refused _ => none

/-- Whether an outcome is the refusal of a reserved form. -/
def isReservedForm (r : Result State) : Bool :=
  match r with
  | .refused .reservedForm => true
  | .next _ | .fault _ | .refused _ => false

/-! ### WellFormed: an ill-formed term for each check -/

theorem test_wellFormed_signed_100_refused :
    ([
    .ldShort .always .r0 0b100, .negShort .always .r0 0b100, .sexShort .always .r0 0b100,
    .offsShort .always .r0 0b100, .cmpShort .always .r0 0b100, .clzShort .always .r0 0b100,
    .ctzShort .always .r0 0b100, .cbsShort .always .r0 0b100, .andShort .always .r0 0b100,
    .orShort .always .r0 0b100, .xorShort .always .r0 0b100, .notShort .always .r0 0b100,
    .addShort .always .r0 0b100, .adcShort .always .r0 0b100, .subShort .always .r0 0b100,
    .sbcShort .always .r0 0b100] : List Instr).all (fun i => !i.wellFormed) = true := by decide

theorem test_wellFormed_count_000_refused :
    ([
    .rorShort .always .r0 0b000, .rolShort .always .r0 0b000, .rrcShort .always .r0 0b000,
    .rlcShort .always .r0 0b000, .lsrShort .always .r0 0b000, .lslShort .always .r0 0b000,
    .asrShort .always .r0 0b000] : List Instr).all (fun i => !i.wellFormed) = true := by decide

theorem test_wellFormed_reserved_100_refused :
    ([
    .ldiReserved .always .r0 0b100, .flgReserved .always .r0 0b100, .jReserved .always .r0 0b100,
    .callReserved .always .r0 0b100] : List Instr).all (fun i => !i.wellFormed) = true := by decide

theorem test_wellFormed_accepts :
    ([.addShort .always .r0 0b011, .lslShort .always .r0 0b100, .ldiReserved .always .r0 0b000, .stiWord .always .r0 .r4,
      .xcgReserved .always .r0 0b100] : List Instr).all Instr.wellFormed = true := by decide

/-! ### Decoding: one word per row of spec/opcode_table.json, written from its encoding -/

theorem test_decode_ldReg : decodeWord 0b0000000010010101#16 = .ldReg .c .r2 .r5 := by decide
theorem test_decode_ldShort : decodeWord 0b0000001101101010#16 = .ldShort .lt .r5 0b010 := by decide
theorem test_decode_ldLong : decodeWord 0b0000010111000100#16 = .ldLong .nv .r0 := by decide
theorem test_decode_ldiReg : decodeWord 0b0000100000011010#16 = .ldiReg .always .r3 .r2 := by decide
theorem test_decode_ldiLong : decodeWord 0b0000101011110100#16 = .ldiLong .ls .r6 := by decide
theorem test_decode_ldiReserved : decodeWord 0b0000110101001111#16 = .ldiReserved .p .r1 0b111 := by decide
theorem test_decode_stiByte : decodeWord 0b0001011110100111#16 = .stiByte .gt .r4 .sp := by decide
theorem test_decode_stiWord : decodeWord 0b0001001001111110#16 = .stiWord .z .sp .r6 := by decide
theorem test_decode_negReg : decodeWord 0b0001110010010101#16 = .negReg .cc .r2 .r5 := by decide
theorem test_decode_negShort : decodeWord 0b0001111101101011#16 = .negShort .ge .r5 0b011 := by decide
theorem test_decode_negLong : decodeWord 0b0001100111000100#16 = .negLong .v .r0 := by decide
theorem test_decode_sexReg : decodeWord 0b0010010000011010#16 = .sexReg .never .r3 .r2 := by decide
theorem test_decode_sexShort : decodeWord 0b0010011011110111#16 = .sexShort .hi .r6 0b111 := by decide
theorem test_decode_sexLong : decodeWord 0b0010000101001100#16 = .sexLong .n .r1 := by decide
theorem test_decode_offsReg : decodeWord 0b0010101110100111#16 = .offsReg .le .r4 .sp := by decide
theorem test_decode_offsShort : decodeWord 0b0010111001111010#16 = .offsShort .nz .sp 0b010 := by decide
theorem test_decode_offsLong : decodeWord 0b0010100011010100#16 = .offsLong .c .r2 := by decide
theorem test_decode_cmpReg : decodeWord 0b0011001100101100#16 = .cmpReg .lt .r5 .r4 := by decide
theorem test_decode_cmpShort : decodeWord 0b0011010111000110#16 = .cmpShort .nv .r0 0b110 := by decide
theorem test_decode_cmpLong : decodeWord 0b0011000001011100#16 = .cmpLong .always .r3 := by decide
theorem test_decode_xcg : decodeWord 0b0011101010110001#16 = .xcg .ls .r6 .r1 := by decide
theorem test_decode_xcgReserved : decodeWord 0b0011110101001101#16 = .xcgReserved .p .r1 0b101 := by decide
theorem test_decode_clzReg : decodeWord 0b0100011110100111#16 = .clzReg .gt .r4 .sp := by decide
theorem test_decode_clzShort : decodeWord 0b0100001001111011#16 = .clzShort .z .sp 0b011 := by decide
theorem test_decode_clzLong : decodeWord 0b0100010011010100#16 = .clzLong .cc .r2 := by decide
theorem test_decode_ctzReg : decodeWord 0b0100111100101100#16 = .ctzReg .ge .r5 .r4 := by decide
theorem test_decode_ctzShort : decodeWord 0b0100100111000111#16 = .ctzShort .v .r0 0b111 := by decide
theorem test_decode_ctzLong : decodeWord 0b0100110001011100#16 = .ctzLong .never .r3 := by decide
theorem test_decode_cbsReg : decodeWord 0b0101011010110001#16 = .cbsReg .hi .r6 .r1 := by decide
theorem test_decode_cbsShort : decodeWord 0b0101000101001010#16 = .cbsShort .n .r1 0b010 := by decide
theorem test_decode_cbsLong : decodeWord 0b0101001111100100#16 = .cbsLong .le .r4 := by decide
theorem test_decode_flgReg : decodeWord 0b0101111000111110#16 = .flgReg .nz .sp .r6 := by decide
theorem test_decode_flgLong : decodeWord 0b0101100011010100#16 = .flgLong .c .r2 := by decide
theorem test_decode_flgReserved : decodeWord 0b0101101101101101#16 = .flgReserved .lt .r5 0b101 := by decide
theorem test_decode_push : decodeWord 0b0110010110111011#16 = .push .nv .r3 := by decide
theorem test_decode_pushReserved : decodeWord 0b0110000001011111#16 = .pushReserved .always .r3 0b111 := by decide
theorem test_decode_pop : decodeWord 0b0110101010110111#16 = .pop .ls .r6 := by decide
theorem test_decode_popReserved : decodeWord 0b0110110101001010#16 = .popReserved .p .r1 0b010 := by decide
theorem test_decode_jReg : decodeWord 0b0111011110111111#16 = .jReg .gt .sp := by decide
theorem test_decode_jLong : decodeWord 0b0111001001111100#16 = .jLong .z := by decide
theorem test_decode_jReserved : decodeWord 0b0111010011010110#16 = .jReserved .cc .r2 0b110 := by decide
theorem test_decode_callReg : decodeWord 0b0111111100111100#16 = .callReg .ge .r4 := by decide
theorem test_decode_callLong : decodeWord 0b0111100111111100#16 = .callLong .v := by decide
theorem test_decode_callReserved : decodeWord 0b0111110001011010#16 = .callReserved .never .r3 0b010 := by decide
theorem test_decode_andReg : decodeWord 0b1000011010110001#16 = .andReg .hi .r6 .r1 := by decide
theorem test_decode_andShort : decodeWord 0b1000000101001101#16 = .andShort .n .r1 0b101 := by decide
theorem test_decode_andLong : decodeWord 0b1000001111100100#16 = .andLong .le .r4 := by decide
theorem test_decode_orReg : decodeWord 0b1000111000111110#16 = .orReg .nz .sp .r6 := by decide
theorem test_decode_orShort : decodeWord 0b1000100011010000#16 = .orShort .c .r2 0b000 := by decide
theorem test_decode_orLong : decodeWord 0b1000101101101100#16 = .orLong .lt .r5 := by decide
theorem test_decode_xorReg : decodeWord 0b1001010110000011#16 = .xorReg .nv .r0 .r3 := by decide
theorem test_decode_xorShort : decodeWord 0b1001000001011011#16 = .xorShort .always .r3 0b011 := by decide
theorem test_decode_xorLong : decodeWord 0b1001001011110100#16 = .xorLong .ls .r6 := by decide
theorem test_decode_notReg : decodeWord 0b1001110100001000#16 = .notReg .p .r1 .r0 := by decide
theorem test_decode_notShort : decodeWord 0b1001111111100111#16 = .notShort .gt .r4 0b111 := by decide
theorem test_decode_notLong : decodeWord 0b1001101001111100#16 = .notLong .z .sp := by decide
theorem test_decode_addReg : decodeWord 0b1010010010010101#16 = .addReg .cc .r2 .r5 := by decide
theorem test_decode_addShort : decodeWord 0b1010011101101010#16 = .addShort .ge .r5 0b010 := by decide
theorem test_decode_addLong : decodeWord 0b1010000111000100#16 = .addLong .v .r0 := by decide
theorem test_decode_adcReg : decodeWord 0b1010110000011010#16 = .adcReg .never .r3 .r2 := by decide
theorem test_decode_adcShort : decodeWord 0b1010111011110110#16 = .adcShort .hi .r6 0b110 := by decide
theorem test_decode_adcLong : decodeWord 0b1010100101001100#16 = .adcLong .n .r1 := by decide
theorem test_decode_subReg : decodeWord 0b1011001110100111#16 = .subReg .le .r4 .sp := by decide
theorem test_decode_subShort : decodeWord 0b1011011001111001#16 = .subShort .nz .sp 0b001 := by decide
theorem test_decode_subLong : decodeWord 0b1011000011010100#16 = .subLong .c .r2 := by decide
theorem test_decode_sbcReg : decodeWord 0b1011101100101100#16 = .sbcReg .lt .r5 .r4 := by decide
theorem test_decode_sbcShort : decodeWord 0b1011110111000101#16 = .sbcShort .nv .r0 0b101 := by decide
theorem test_decode_sbcLong : decodeWord 0b1011100001011100#16 = .sbcLong .always .r3 := by decide
theorem test_decode_rorReg : decodeWord 0b1100001010110001#16 = .rorReg .ls .r6 .r1 := by decide
theorem test_decode_rorShort : decodeWord 0b1100010101001100#16 = .rorShort .p .r1 0b100 := by decide
theorem test_decode_rorLong : decodeWord 0b1100011111100000#16 = .rorLong .gt .r4 := by decide
theorem test_decode_rolReg : decodeWord 0b1100101000111110#16 = .rolReg .z .sp .r6 := by decide
theorem test_decode_rolShort : decodeWord 0b1100110011010011#16 = .rolShort .cc .r2 0b011 := by decide
theorem test_decode_rolLong : decodeWord 0b1100111101101000#16 = .rolLong .ge .r5 := by decide
theorem test_decode_rrcReg : decodeWord 0b1101000110000011#16 = .rrcReg .v .r0 .r3 := by decide
theorem test_decode_rrcShort : decodeWord 0b1101010001011111#16 = .rrcShort .never .r3 0b111 := by decide
theorem test_decode_rrcLong : decodeWord 0b1101011011110000#16 = .rrcLong .hi .r6 := by decide
theorem test_decode_rlcReg : decodeWord 0b1101100100001000#16 = .rlcReg .n .r1 .r0 := by decide
theorem test_decode_rlcShort : decodeWord 0b1101101111100010#16 = .rlcShort .le .r4 0b010 := by decide
theorem test_decode_rlcLong : decodeWord 0b1101111001111000#16 = .rlcLong .nz .sp := by decide
theorem test_decode_lsrReg : decodeWord 0b1110000010010101#16 = .lsrReg .c .r2 .r5 := by decide
theorem test_decode_lsrShort : decodeWord 0b1110001101101110#16 = .lsrShort .lt .r5 0b110 := by decide
theorem test_decode_lsrLong : decodeWord 0b1110010111000000#16 = .lsrLong .nv .r0 := by decide
theorem test_decode_lslReg : decodeWord 0b1110100000011010#16 = .lslReg .always .r3 .r2 := by decide
theorem test_decode_lslShort : decodeWord 0b1110101011110001#16 = .lslShort .ls .r6 0b001 := by decide
theorem test_decode_lslLong : decodeWord 0b1110110101001000#16 = .lslLong .p .r1 := by decide
theorem test_decode_asrReg : decodeWord 0b1111011110100111#16 = .asrReg .gt .r4 .sp := by decide
theorem test_decode_asrShort : decodeWord 0b1111001001111101#16 = .asrShort .z .sp 0b101 := by decide
theorem test_decode_asrLong : decodeWord 0b1111010011010000#16 = .asrLong .cc .r2 := by decide
theorem test_decode_ret : decodeWord 0b1111111100111111#16 = .ret .ge := by decide
theorem test_decode_retReserved : decodeWord 0b1111100111000001#16 = .retReserved .v .r0 0b001 := by decide

/-- An immediate is little-endian and follows the word (R51, R52). -/
theorem test_decode_bytes_long :
    decode [0x00, 0x7C, 0x34, 0x12, 0xEE] = .ok ⟨.ldLong .always .sp, some 0x1234, [0xEE]⟩ := by decide
theorem test_decode_bytes_short : decode [0xA0, 0xC1, 0xEE] = .ok ⟨.addShort .c .r0 1, none, [0xEE]⟩ := by decide
theorem test_decode_no_immediate : decode [0x00, 0x7C, 0x34] = .error .missingImmediate := by decide
theorem test_decode_no_word : decode [0x00] = .error .missingInstructionWord := by decide
theorem test_decodeTableWord : decodeTableWord 32 0x1234007C = some (.ldLong .always .sp) := by decide

/-! ### One step: the vectors of spec/95_test_vectors.md section 3 -/

-- ld r0,-3
theorem test_ld_1 :
    after (step (machine 0x0100 [0x00, 0x45] [] 0b0101 [])) [.r0] [] =
      some ([0xFFFD], 0b0101, 0x0102, []) := by decide
-- ld sp,0x8000
theorem test_ld_2 :
    after (step (machine 0x0100 [0x00, 0x7C, 0x00, 0x80] [] 0b0000 [])) [.sp] [] =
      some ([0x8000], 0b0000, 0x0104, []) := by decide
-- ld r1,(r1) (same register)
theorem test_ldi_1 :
    after (step (machine 0x0100 [0x08, 0x09] [(.r1, 0x2000)] 0b0000 [(0x2000, [0x34]), (0x2001, [0x12])])) [.r1] [] =
      some ([0x1234], 0b0000, 0x0102, []) := by decide
-- ld r1,(r2) (address FFFF wraps to 0000)
theorem test_ldi_2 :
    after (step (machine 0x0100 [0x08, 0x0A] [(.r2, 0xFFFF)] 0b0000 [(0x0000, [0x56]), (0xFFFF, [0x78])])) [.r1, .r2] [] =
      some ([0x5678, 0xFFFF], 0b0000, 0x0102, []) := by decide
-- ld (r1),r2 (address FFFF wraps)
theorem test_sti_1 :
    after (step (machine 0x0100 [0x10, 0x4A] [(.r1, 0xFFFF), (.r2, 0xA1B2)] 0b0000 [])) [.r1, .r2] [0x0000, 0xFFFF] =
      some ([0xFFFF, 0xA1B2], 0b0000, 0x0102, [some 0xA1, some 0xB2]) := by decide
-- ldb (r1),r2
theorem test_sti_2 :
    after (step (machine 0x0100 [0x10, 0x0A] [(.r1, 0x3000), (.r2, 0xA1B2)] 0b0000 [(0x3001, [0x77])])) [.r1, .r2] [0x3000] =
      some ([0x3000, 0xA1B2], 0b0000, 0x0102, [some 0xB2]) := by decide
-- neg r0,r1 (8000)
theorem test_neg_1 :
    after (step (machine 0x0100 [0x18, 0x01] [(.r1, 0x8000)] 0b0000 [])) [.r0, .r1] [] =
      some ([0x8000, 0x8000], 0b0110, 0x0102, []) := by decide
-- neg r0,-3 (short immediate is signed, see C1)
theorem test_neg_2 :
    after (step (machine 0x0100 [0x18, 0x45] [] 0b0000 [])) [.r0] [] =
      some ([0x0003], 0b0000, 0x0102, []) := by decide
-- sex r0,r1
theorem test_sex_1 :
    after (step (machine 0x0100 [0x20, 0x01] [(.r1, 0x1280)] 0b1010 [])) [.r0, .r1] [] =
      some ([0xFF80, 0x1280], 0b0100, 0x0102, []) := by decide
-- sex r0,0x12FE (only the low byte is used)
theorem test_sex_2 :
    after (step (machine 0x0100 [0x20, 0x44, 0xFE, 0x12] [] 0b1010 [])) [.r0] [] =
      some ([0xFFFE], 0b0100, 0x0104, []) := by decide
-- offs r6,-6 (field 101)
theorem test_offs_1 :
    after (step (machine 0x0008 [0x28, 0x75] [] 0b0000 [])) [.r6] [] =
      some ([0x0004], 0b0000, 0x000A, []) := by decide
-- offs r6,0x0100 (long: next instruction is PC+4)
theorem test_offs_2 :
    after (step (machine 0x0200 [0x28, 0x74, 0x00, 0x01] [] 0b0000 [])) [.r6] [] =
      some ([0x0304], 0b0000, 0x0204, []) := by decide
-- cmp r0,r1 (8000 vs 7FFF)
theorem test_cmp_1 :
    after (step (machine 0x0100 [0x30, 0x01] [(.r0, 0x8000), (.r1, 0x7FFF)] 0b0000 [])) [.r0, .r1] [] =
      some ([0x8000, 0x7FFF], 0b1010, 0x0102, []) := by decide
-- cmp r0,5
theorem test_cmp_2 :
    after (step (machine 0x0100 [0x30, 0x44, 0x05, 0x00] [(.r0, 0x0003)] 0b0000 [])) [.r0] [] =
      some ([0x0003], 0b0100, 0x0104, []) := by decide
-- xcg r0,r1
theorem test_xcg_1 :
    after (step (machine 0x0100 [0x38, 0x01] [(.r0, 0x1111), (.r1, 0x2222)] 0b1111 [])) [.r0, .r1] [] =
      some ([0x2222, 0x1111], 0b1111, 0x0102, []) := by decide
-- xcg r2,r2 (same register)
theorem test_xcg_2 :
    after (step (machine 0x0100 [0x38, 0x12] [(.r2, 0x1234)] 0b0000 [])) [.r2] [] =
      some ([0x1234], 0b0000, 0x0102, []) := by decide
-- clz r0,r1
theorem test_clz_1 :
    after (step (machine 0x0100 [0x40, 0x01] [(.r0, 0x5555), (.r1, 0x0000)] 0b1111 [])) [.r0, .r1] [] =
      some ([0x0010, 0x0000], 0b1010, 0x0102, []) := by decide
-- clz r0,-1 (immediate FFFF)
theorem test_clz_2 :
    after (step (machine 0x0100 [0x40, 0x47] [(.r0, 0x5555)] 0b0100 [])) [.r0] [] =
      some ([0x0000], 0b0001, 0x0102, []) := by decide
-- ctz r0,r1
theorem test_ctz_1 :
    after (step (machine 0x0100 [0x48, 0x01] [(.r0, 0x5555), (.r1, 0x0000)] 0b1111 [])) [.r0, .r1] [] =
      some ([0x0010, 0x0000], 0b1010, 0x0102, []) := by decide
-- ctz r0,2
theorem test_ctz_2 :
    after (step (machine 0x0100 [0x48, 0x42] [(.r0, 0x5555)] 0b0000 [])) [.r0] [] =
      some ([0x0001], 0b0000, 0x0102, []) := by decide
-- cbs r0,-3 (immediate FFFD)
theorem test_cbs_1 :
    after (step (machine 0x0100 [0x50, 0x45] [(.r0, 0x5555)] 0b0000 [])) [.r0] [] =
      some ([0x000F], 0b0000, 0x0102, []) := by decide
-- cbs r0,0x0F0F
theorem test_cbs_2 :
    after (step (machine 0x0100 [0x50, 0x44, 0x0F, 0x0F] [(.r0, 0x5555)] 0b0000 [])) [.r0] [] =
      some ([0x0008], 0b0000, 0x0104, []) := by decide
-- flg r0,r0 (same register: swap with flags)
theorem test_flg_1 :
    after (step (machine 0x0100 [0x58, 0x00] [(.r0, 0x0003)] 0b1100 [])) [.r0] [] =
      some ([0x000C], 0b0011, 0x0102, []) := by decide
-- flg r0,0xABC0 (only bits 3..0 used)
theorem test_flg_2 :
    after (step (machine 0x0100 [0x58, 0x44, 0xC0, 0xAB] [(.r0, 0x5555)] 0b1111 [])) [.r0] [] =
      some ([0x000F], 0b0000, 0x0104, []) := by decide
-- push r1
theorem test_push_1 :
    after (step (machine 0x0100 [0x60, 0x01] [(.r1, 0xA1B2), (.sp, 0x8000)] 0b1111 [])) [.r1, .sp] [0x7FFE, 0x7FFF] =
      some ([0xA1B2, 0x7FFE], 0b1111, 0x0102, [some 0xB2, some 0xA1]) := by decide
-- push r1 (SP=0001 wraps)
theorem test_push_2 :
    after (step (machine 0x0100 [0x60, 0x01] [(.r1, 0xA1B2), (.sp, 0x0001)] 0b0000 [])) [.r1, .sp] [0x0000, 0xFFFF] =
      some ([0xA1B2, 0xFFFF], 0b0000, 0x0102, [some 0xA1, some 0xB2]) := by decide
-- pop r1
theorem test_pop_1 :
    after (step (machine 0x0100 [0x68, 0x08] [(.sp, 0x7FFE)] 0b1111 [(0x7FFE, [0xB2]), (0x7FFF, [0xA1])])) [.r1, .sp] [] =
      some ([0xA1B2, 0x8000], 0b1111, 0x0102, []) := by decide
-- pop sp (SP = popped value + 2)
theorem test_pop_2 :
    after (step (machine 0x0100 [0x68, 0x38] [(.sp, 0x7FFE)] 0b0000 [(0x7FFE, [0x00]), (0x7FFF, [0x90])])) [.sp] [] =
      some ([0x9002], 0b0000, 0x0102, []) := by decide
-- j 0x0101 (odd target)
theorem test_j_1 :
    after (step (machine 0x0300 [0x70, 0x44, 0x01, 0x01] [] 0b0000 [])) [] [] =
      some ([], 0b0000, 0x0101, []) := by decide
-- jz 0x4321 (Z=0: not executed)
theorem test_j_2 :
    after (step (machine 0x0100 [0x72, 0x44, 0x21, 0x43] [] 0b0000 [])) [] [] =
      some ([], 0b0000, 0x0104, []) := by decide
-- call sp (target is SP after the push)
theorem test_call_1 :
    after (step (machine 0x0100 [0x78, 0x07] [(.sp, 0x8000)] 0b0000 [])) [.sp] [0x7FFE, 0x7FFF] =
      some ([0x7FFE], 0b0000, 0x7FFE, [some 0x02, some 0x01]) := by decide
-- call 0x1234 (CALL_IMM_RETURN = next_instruction, the default)
theorem test_call_2 :
    after (step (machine 0x0100 [0x78, 0x44, 0x34, 0x12] [(.sp, 0x8000)] 0b0000 [])) [.sp] [0x7FFE, 0x7FFF] =
      some ([0x7FFE], 0b0000, 0x1234, [some 0x04, some 0x01]) := by decide
-- and r0,r1
theorem test_and_1 :
    after (step (machine 0x0100 [0x80, 0x01] [(.r0, 0xF0F0), (.r1, 0x0FF0)] 0b1010 [])) [.r0, .r1] [] =
      some ([0x00F0, 0x0FF0], 0b1010, 0x0102, []) := by decide
-- and r0,-2 (immediate FFFE)
theorem test_and_2 :
    after (step (machine 0x0100 [0x80, 0x46] [(.r0, 0x8003)] 0b0000 [])) [.r0] [] =
      some ([0x8002], 0b0100, 0x0102, []) := by decide
-- or r0,r1
theorem test_or_1 :
    after (step (machine 0x0100 [0x88, 0x01] [(.r0, 0x00F0), (.r1, 0x8001)] 0b0010 [])) [.r0, .r1] [] =
      some ([0x80F1, 0x8001], 0b0110, 0x0102, []) := by decide
-- or r0,0
theorem test_or_2 :
    after (step (machine 0x0100 [0x88, 0x40] [(.r0, 0x0000)] 0b1010 [])) [.r0] [] =
      some ([0x0000], 0b1011, 0x0102, []) := by decide
-- xor r0,r0 (same register)
theorem test_xor_1 :
    after (step (machine 0x0100 [0x90, 0x00] [(.r0, 0x1234)] 0b1000 [])) [.r0] [] =
      some ([0x0000], 0b1001, 0x0102, []) := by decide
-- xor r0,0x8000
theorem test_xor_2 :
    after (step (machine 0x0100 [0x90, 0x44, 0x00, 0x80] [(.r0, 0x0001)] 0b0000 [])) [.r0] [] =
      some ([0x8001], 0b0100, 0x0104, []) := by decide
-- not r0,r1
theorem test_not_1 :
    after (step (machine 0x0100 [0x98, 0x01] [(.r1, 0x00FF)] 0b1010 [])) [.r0, .r1] [] =
      some ([0xFF00, 0x00FF], 0b1110, 0x0102, []) := by decide
-- not r0,3
theorem test_not_2 :
    after (step (machine 0x0100 [0x98, 0x43] [] 0b0000 [])) [.r0] [] =
      some ([0xFFFC], 0b0100, 0x0102, []) := by decide
-- add r0,r1
theorem test_add_1 :
    after (step (machine 0x0100 [0xA0, 0x01] [(.r0, 0x7FFF), (.r1, 0x0001)] 0b0000 [])) [.r0, .r1] [] =
      some ([0x8000, 0x0001], 0b0110, 0x0102, []) := by decide
-- add r0,0x1234
theorem test_add_2 :
    after (step (machine 0x0100 [0xA0, 0x44, 0x34, 0x12] [(.r0, 0x1111)] 0b0000 [])) [.r0] [] =
      some ([0x2345], 0b0000, 0x0104, []) := by decide
-- adc r0,r1 (C=1)
theorem test_adc_1 :
    after (step (machine 0x0100 [0xA8, 0x01] [(.r0, 0xFFFF), (.r1, 0x0000)] 0b1000 [])) [.r0, .r1] [] =
      some ([0x0000, 0x0000], 0b1001, 0x0102, []) := by decide
-- adc r0,r1 (C=0)
theorem test_adc_2 :
    after (step (machine 0x0100 [0xA8, 0x01] [(.r0, 0x7FFF), (.r1, 0x0000)] 0b0000 [])) [.r0, .r1] [] =
      some ([0x7FFF, 0x0000], 0b0000, 0x0102, []) := by decide
-- sub r0,r1
theorem test_sub_1 :
    after (step (machine 0x0100 [0xB0, 0x01] [(.r0, 0x8000), (.r1, 0x0001)] 0b0000 [])) [.r0, .r1] [] =
      some ([0x7FFF, 0x0001], 0b1010, 0x0102, []) := by decide
-- sub r0,1
theorem test_sub_2 :
    after (step (machine 0x0100 [0xB0, 0x41] [(.r0, 0x0000)] 0b0000 [])) [.r0] [] =
      some ([0xFFFF], 0b0100, 0x0102, []) := by decide
-- sbc r0,r1 (C=1: no borrow in)
theorem test_sbc_1 :
    after (step (machine 0x0100 [0xB8, 0x01] [(.r0, 0x0005), (.r1, 0x0003)] 0b1000 [])) [.r0, .r1] [] =
      some ([0x0002, 0x0003], 0b1000, 0x0102, []) := by decide
-- sbc r0,r1 (C=0: borrow in)
theorem test_sbc_2 :
    after (step (machine 0x0100 [0xB8, 0x01] [(.r0, 0x0005), (.r1, 0x0003)] 0b0000 [])) [.r0, .r1] [] =
      some ([0x0001, 0x0003], 0b1000, 0x0102, []) := by decide
-- ror r0,4
theorem test_ror_1 :
    after (step (machine 0x0100 [0xC0, 0x44] [(.r0, 0x1234)] 0b0000 [])) [.r0] [] =
      some ([0x4123], 0b0000, 0x0102, []) := by decide
-- ror r0,r1 (count 17)
theorem test_ror_2 :
    after (step (machine 0x0100 [0xC0, 0x01] [(.r0, 0x0002), (.r1, 0x0011)] 0b0000 [])) [.r0, .r1] [] =
      some ([0x0001, 0x0011], 0b0000, 0x0102, []) := by decide
-- rol r0,1
theorem test_rol_1 :
    after (step (machine 0x0100 [0xC8, 0x41] [(.r0, 0x8001)] 0b1010 [])) [.r0] [] =
      some ([0x0003], 0b0000, 0x0102, []) := by decide
-- rol r0,r1 (count 20)
theorem test_rol_2 :
    after (step (machine 0x0100 [0xC8, 0x01] [(.r0, 0x1234), (.r1, 0x0014)] 0b0000 [])) [.r0, .r1] [] =
      some ([0x2341, 0x0014], 0b0000, 0x0102, []) := by decide
-- rrc r0,4 (C=1)
theorem test_rrc_1 :
    after (step (machine 0x0100 [0xD0, 0x44] [(.r0, 0x1234)] 0b1000 [])) [.r0] [] =
      some ([0x9123], 0b0100, 0x0102, []) := by decide
-- rrc r0,r1 (count 18 = 1 mod 17, C=0)
theorem test_rrc_2 :
    after (step (machine 0x0100 [0xD0, 0x01] [(.r0, 0x0003), (.r1, 0x0012)] 0b0000 [])) [.r0, .r1] [] =
      some ([0x0001, 0x0012], 0b1000, 0x0102, []) := by decide
-- rlc r0,1 (C=0)
theorem test_rlc_1 :
    after (step (machine 0x0100 [0xD8, 0x41] [(.r0, 0x8000)] 0b0000 [])) [.r0] [] =
      some ([0x0000], 0b1001, 0x0102, []) := by decide
-- rlc r0,r1 (count 16, C=1)
theorem test_rlc_2 :
    after (step (machine 0x0100 [0xD8, 0x01] [(.r0, 0x0001), (.r1, 0x0010)] 0b1000 [])) [.r0, .r1] [] =
      some ([0x8000, 0x0010], 0b1100, 0x0102, []) := by decide
-- lsr r0,1
theorem test_lsr_1 :
    after (step (machine 0x0100 [0xE0, 0x41] [(.r0, 0x8001)] 0b0000 [])) [.r0] [] =
      some ([0x4000], 0b1000, 0x0102, []) := by decide
-- lsr r0,r1 (count 16)
theorem test_lsr_2 :
    after (step (machine 0x0100 [0xE0, 0x01] [(.r0, 0x8000), (.r1, 0x0010)] 0b0000 [])) [.r0, .r1] [] =
      some ([0x0000, 0x0010], 0b1001, 0x0102, []) := by decide
-- lsl r0,r1 (count 0)
theorem test_lsl_1 :
    after (step (machine 0x0100 [0xE8, 0x01] [(.r0, 0x8001), (.r1, 0x0000)] 0b1010 [])) [.r0, .r1] [] =
      some ([0x8001, 0x0000], 0b0100, 0x0102, []) := by decide
-- lsl r0,8 (long form: 8 has no short form)
theorem test_lsl_2 :
    after (step (machine 0x0100 [0xE8, 0x40, 0x08, 0x00] [(.r0, 0x0101)] 0b0000 [])) [.r0] [] =
      some ([0x0100], 0b1000, 0x0104, []) := by decide
-- asr r0,r1 (count 15)
theorem test_asr_1 :
    after (step (machine 0x0100 [0xF0, 0x01] [(.r0, 0x8000), (.r1, 0x000F)] 0b0000 [])) [.r0, .r1] [] =
      some ([0xFFFF, 0x000F], 0b0100, 0x0102, []) := by decide
-- asr r0,0x0003 (long form)
theorem test_asr_2 :
    after (step (machine 0x0100 [0xF0, 0x40, 0x03, 0x00] [(.r0, 0xFFF8)] 0b0000 [])) [.r0] [] =
      some ([0xFFFF], 0b0100, 0x0104, []) := by decide
-- ret
theorem test_ret_1 :
    after (step (machine 0x1234 [0xF8, 0x00] [(.sp, 0x7FFE)] 0b1001 [(0x7FFE, [0x02]), (0x7FFF, [0x01])])) [.sp] [] =
      some ([0x8000], 0b1001, 0x0102, []) := by decide
-- retnz (Z=1: not executed)
theorem test_ret_2 :
    after (step (machine 0x1234 [0xFE, 0x00] [(.sp, 0x7FFE)] 0b0001 [(0x7FFE, [0x02]), (0x7FFF, [0x01])])) [.sp] [] =
      some ([0x7FFE], 0b0001, 0x1236, []) := by decide

-- request pending: interrupt entry, whatever stands at pc
theorem test_interrupt :
    after (step { machine 0x0246 [0xA0, 0x41] [(.r0, 0x0010), (.sp, 0x8000)] 0b1010 [] with pending := true })
        [.r0, .sp] [0x7FFE, 0x7FFF] =
      some ([0x0010, 0x7FFE], 0b1010, 0x0008, [some 0x46, some 0x02]) := by decide
-- jz 0x4321 with Z = 0 where COND_FALSE_LONG_ADVANCE is 2
theorem test_falseLongAdvance_two :
    after (step { machine 0x0100 [0x72, 0x44, 0x21, 0x43] [] 0 [] with
        platform := { Platform.standard with falseLongAdvance := .two } }) [] [] = some ([], 0, 0x0102, []) := by decide
-- call 0x1234 where CALL_IMM_RETURN is immediate_address
theorem test_callImmReturn_immediateAddress :
    after (step { machine 0x0100 [0x78, 0x44, 0x34, 0x12] [(.sp, 0x8000)] 0 [] with
        platform := { Platform.standard with callImmReturn := .immediateAddress } }) [.sp] [0x7FFE, 0x7FFF] =
      some ([0x7FFE], 0, 0x1234, [some 0x02, some 0x01]) := by decide
-- the eight reserved forms, one of them under the condition never
theorem test_reserved_forms :
    ([[0x38, 0x41], [0x60, 0x44], [0x68, 0x48], [0xF8, 0x40], [0x74, 0x41], [0x78, 0x47], [0x08, 0x41], [0x58, 0x43]] :
      List (List Byte)).all (fun code => isReservedForm (step (machine 0x0100 code [] 0 []))) = true := by decide

/-! ### The micro level and the assembler: the worked examples of R229 and R109 -/

theorem test_control_word_1 : opFirst.encode = 0x682008#24 := by decide
theorem test_control_word_2 : (opAluRdWf (aluPlain .adc)).encode = 0x804043#24 := by decide
theorem test_control_word_3 : opLoadLoB.encode = 0xB60004#24 := by decide
theorem test_micro_add :
    after (microInstruction (machine 0x0100 [0xA0, 0x01] [(.r0, 0x7FFF), (.r1, 1)] 0 [])) [.r0] [] =
      some ([0x8000], 0b0110, 0x0102, []) := by decide
theorem test_micro_counts :
    microOpCount .rlc .shortImmediate = some 8 ∧ microOpCount .ld .register = some 4 ∧
    microOpCount .ctz .longImmediate = some 8 ∧ microOpCount .xcg .shortImmediate = none := by decide
/-- Words of defined fields that no listing holds (R12, N33): `wf` alone, and `~fd` to A with `wf`. -/
theorem test_micro_outside (s : State) :
    runWord 0x000001 s = .refused .undefinedMicroOp ∧
    runWord (MicroOp.encode { source := .alu, alu := aluNotFd, toA := true, wf := true }) s =
      .refused .undefinedMicroOp := ⟨rfl, rfl⟩
theorem test_assemble_offs : assemble (.instr .offs .always [.reg .r6, .num (-6)]) = some [0x28, 0x75] := by decide
theorem test_assemble_lsl :
    assemble (.instr .lsl .always [.reg .r0, .num 16]) = some [0xE8, 0x40, 0x10, 0x00] := by decide
theorem test_assemble_store : assemble (.instr .ld .always [.atReg .r1, .reg .r4]) = some [0x10, 0x4C] := by decide
theorem test_assemble_dw : assemble (.dw [0x1234, -2]) = some [0x34, 0x12, 0xFE, 0xFF] := by decide

/-! ### Witnesses: a concrete state and operands that meet the hypotheses of each statement -/

/-- As a meaning sees it: pc at a readable immediate word 0x1234, words at 0x1234, 0x2000 and 0x8000, RAM below SP. -/
def ready : State :=
  machine 0x0100 [0x34, 0x12] [(.sp, 0x8000), (.r1, 0x2000)] 0b0100
    [(0x1234, [0x78, 0x56]), (0x2000, [0xBC, 0x9A]), (0x8000, [0xCD, 0xAB])]

/-- `ready` with pc at a byte that holds no value. -/
def unreadable : State := { ready with pc := 0x4000 }

/-- `ready` with a request pending. -/
def requested : State := { ready with pending := true }

/-- `ready` with ROM at some addresses and no memory at others. -/
def withMap (map : List Region) (s : State) : State :=
  { s with platform := { s.platform with memMap := map ++ s.platform.memMap } }

/-- A state at an instruction boundary about to execute `code` at 0x0100. -/
def running (code : List Byte) : State :=
  machine 0x0100 code [(.sp, 0x8000), (.r1, 0x2000), (.r6, 0x0100)] 0b0100 [(0x8000, [0xCD, 0xAB])]

theorem test_witness_DecodeEncode :
    (Instr.addShort .c .r0 0b101).wellFormed = true ∧ (Instr.lslShort .c .r0 0b100).wellFormed = true ∧
    (Instr.ldiReserved .c .r0 0b111).wellFormed = true ∧ (Instr.callLong .gt).wellFormed = true := by decide
theorem test_witness_StepRunsDecoded :
    (running [0xA0, 0x41]).pending = false ∧
    readByte (running [0xA0, 0x41]).pc (running [0xA0, 0x41]) = .next 0xA0 ∧
    readByte ((running [0xA0, 0x41]).pc + 1#16) (running [0xA0, 0x41]) = .next 0x41 ∧
    decodeWord (wordOfBytes 0xA0 0x41) = .addShort .always .r0 1 := ⟨rfl, rfl, rfl, by decide⟩
theorem test_witness_ModeSelectRule :
    (∃ t, step (running [0xA0, 0x41]) = .next t) ∧ (running [0xA0, 0x41]).pending = false ∧
    (∃ t, step requested = .next t) ∧ requested.pending = true := ⟨⟨_, rfl⟩, rfl, ⟨_, rfl⟩, rfl⟩
theorem test_witness_InterruptEntryEffect :
    requested.pending = true ∧ kindAt requested (readReg .sp requested - 1#16) = .ram ∧
    kindAt requested (readReg .sp requested - 2#16) = .ram := by decide
theorem test_witness_StoresStopOutsideRam_store :
    condHolds .always ready.flags = true ∧
    kindAt (withMap [⟨0x2000, 0x2000, .rom⟩] ready) (readReg .r1 ready) ≠ .ram ∧
    kindAt (withMap [⟨0x2001, 0x2001, .absent⟩] ready) (readReg .r1 ready) = .ram ∧
    kindAt (withMap [⟨0x2001, 0x2001, .absent⟩] ready) (readReg .r1 ready + 1#16) ≠ .ram := by decide
theorem test_witness_StoresStopOutsideRam_push :
    kindAt (withMap [⟨0x7FFF, 0x7FFF, .rom⟩] requested) (readReg .sp requested - 1#16) ≠ .ram ∧
    kindAt (withMap [⟨0x7FFE, 0x7FFE, .rom⟩] requested) (readReg .sp requested - 1#16) = .ram ∧
    kindAt (withMap [⟨0x7FFE, 0x7FFE, .rom⟩] requested) (readReg .sp requested - 2#16) ≠ .ram := by decide
theorem test_witness_FailedCondition :
    condHolds (Instr.addLong .c .r0).cond ready.flags = false ∧ condHolds (Instr.ret .never).cond ready.flags = false ∧
    (Instr.addLong .c .r0).isReserved = false ∧ (Instr.ret .never).isReserved = false := by decide
/-- The first byte of a word at fault and, past a byte that can be read, the second; at the ends of a region and of the
address space. -/
theorem test_witness_UnreadableBytesStop_word :
    wordRefused (readRefused unreadable) unreadable.pc (.uninitialised 0x4000) ∧
    wordRefused (readRefused (withMap [⟨0x0101, 0x0101, .absent⟩] ready)) 0x0100 (.badAccess 0x0101) ∧
    wordRefused (readRefused (storeByte 0xFFFF 0x5A ready)) 0xFFFF (.uninitialised 0x0000) ∧
    unreadable.pending = false :=
  ⟨.inl (.inr ⟨by decide, by decide, rfl⟩),
   .inr ⟨fun g h => by rcases h with ⟨h, -⟩ | ⟨-, h, -⟩ <;> revert h <;> decide, .inl ⟨by decide, rfl⟩⟩,
   .inr ⟨fun g h => by rcases h with ⟨h, -⟩ | ⟨-, h, -⟩ <;> revert h <;> decide, .inr ⟨by decide, by decide, rfl⟩⟩,
   rfl⟩
theorem test_witness_UnreadableBytesStop_immediate :
    (Instr.addLong .always .r0).isLong = true ∧ (Instr.sexLong .n .r0).isLong = true ∧
    condHolds (Instr.addLong .always .r0).cond unreadable.flags = true ∧
    condHolds (Instr.sexLong .n .r0).cond unreadable.flags = true ∧
    (Instr.addLong .always .r0).fields.opcode ∉ [.call, .sex, .flg] ∧
    (Instr.sexLong .n .r0).fields.opcode ∈ [.sex, .flg] := by decide
/-- CALL's immediate right above the pushed word: its first byte is the return address's high byte, its second is the
old top of the stack, which nothing has written. -/
theorem test_witness_UnreadableBytesStop_call :
    let s := setPc 0x8FFF (writeReg .sp 0x9000 ready)
    kindAt s (readReg .sp s - 1#16) = .ram ∧ kindAt s (readReg .sp s - 2#16) = .ram ∧
    wordRefused (fun a g => a ≠ readReg .sp s - 1#16 ∧ a ≠ readReg .sp s - 2#16 ∧ readRefused s a g) s.pc
      (.uninitialised 0x9000) :=
  ⟨by decide, by decide, .inr ⟨fun g h => h.1 (by decide), by decide, by decide, .inr ⟨by decide, by decide, rfl⟩⟩⟩
/-- LDI from r1 and through the immediate word 0x1234, POP and RET at SP, each at a byte with nothing there. -/
theorem test_witness_UnreadableBytesStop_data :
    readByte ready.pc (withMap [⟨0x1234, 0x1234, .absent⟩] ready) = .next 0x34 ∧
    readByte (ready.pc + 1#16) (withMap [⟨0x1234, 0x1234, .absent⟩] ready) = .next 0x12 ∧
    readRefused (withMap [⟨0x1234, 0x1234, .absent⟩] ready) 0x1234 (.badAccess 0x1234) ∧
    readRefused (withMap [⟨0x2000, 0x2000, .absent⟩] ready) (readReg .r1 ready) (.badAccess 0x2000) ∧
    readRefused (withMap [⟨0x8000, 0x8000, .absent⟩] ready) (readReg .sp ready) (.badAccess 0x8000) :=
  ⟨rfl, rfl, .inl ⟨by decide, rfl⟩, .inl ⟨by decide, rfl⟩, .inl ⟨by decide, rfl⟩⟩
theorem test_witness_CompareConditions :
    condHolds .n ready.flags = true ∧ (Instr.cmpShort .n .sp 0b101).wellFormed = true ∧
    (Instr.cmpShort .n .sp 0b011).wellFormed = true ∧ readByte ready.pc ready = .next 0x34 ∧
    readByte (ready.pc + 1#16) ready = .next 0x12 := ⟨rfl, rfl, rfl, rfl, rfl⟩
theorem test_witness_LdResult :
    condHolds .n ready.flags = true ∧ (Instr.ldShort .n .sp 0b101).wellFormed = true ∧
    (Instr.ldShort .n .sp 0b011).wellFormed = true ∧ readByte ready.pc ready = .next 0x34 ∧
    readByte (ready.pc + 1#16) ready = .next 0x12 := ⟨rfl, rfl, rfl, rfl, rfl⟩
theorem test_witness_NegResult :
    condHolds .n ready.flags = true ∧ (Instr.negShort .n .sp 0b101).wellFormed = true ∧
    (Instr.negShort .n .sp 0b011).wellFormed = true ∧ readByte ready.pc ready = .next 0x34 ∧
    readByte (ready.pc + 1#16) ready = .next 0x12 := ⟨rfl, rfl, rfl, rfl, rfl⟩
theorem test_witness_SexResult :
    condHolds .n ready.flags = true ∧ (Instr.sexShort .n .sp 0b101).wellFormed = true ∧
    (Instr.sexShort .n .sp 0b011).wellFormed = true ∧ readByte ready.pc ready = .next 0x34 ∧
    readByte (ready.pc + 1#16) ready = .next 0x12 := ⟨rfl, rfl, rfl, rfl, rfl⟩
theorem test_witness_OffsResult :
    condHolds .n ready.flags = true ∧ (Instr.offsShort .n .sp 0b101).wellFormed = true ∧
    (Instr.offsShort .n .sp 0b011).wellFormed = true ∧ readByte ready.pc ready = .next 0x34 ∧
    readByte (ready.pc + 1#16) ready = .next 0x12 := ⟨rfl, rfl, rfl, rfl, rfl⟩
theorem test_witness_CmpResult :
    condHolds .n ready.flags = true ∧ (Instr.cmpShort .n .sp 0b101).wellFormed = true ∧
    (Instr.cmpShort .n .sp 0b011).wellFormed = true ∧ readByte ready.pc ready = .next 0x34 ∧
    readByte (ready.pc + 1#16) ready = .next 0x12 := ⟨rfl, rfl, rfl, rfl, rfl⟩
theorem test_witness_AddResults :
    condHolds .n ready.flags = true ∧ (Instr.adcShort .n .sp 0b101).wellFormed = true ∧
    (Instr.adcShort .n .sp 0b011).wellFormed = true ∧ readByte ready.pc ready = .next 0x34 ∧
    readByte (ready.pc + 1#16) ready = .next 0x12 := ⟨rfl, rfl, rfl, rfl, rfl⟩
theorem test_witness_SubResults :
    condHolds .n ready.flags = true ∧ (Instr.sbcShort .n .sp 0b101).wellFormed = true ∧
    (Instr.sbcShort .n .sp 0b011).wellFormed = true ∧ readByte ready.pc ready = .next 0x34 ∧
    readByte (ready.pc + 1#16) ready = .next 0x12 := ⟨rfl, rfl, rfl, rfl, rfl⟩
theorem test_witness_CountResults :
    condHolds .n ready.flags = true ∧ (Instr.ctzShort .n .sp 0b101).wellFormed = true ∧
    (Instr.ctzShort .n .sp 0b011).wellFormed = true ∧ readByte ready.pc ready = .next 0x34 ∧
    readByte (ready.pc + 1#16) ready = .next 0x12 := ⟨rfl, rfl, rfl, rfl, rfl⟩
theorem test_witness_LogicResults :
    condHolds .n ready.flags = true ∧ (Instr.xorShort .n .sp 0b101).wellFormed = true ∧
    (Instr.xorShort .n .sp 0b011).wellFormed = true ∧ readByte ready.pc ready = .next 0x34 ∧
    readByte (ready.pc + 1#16) ready = .next 0x12 := ⟨rfl, rfl, rfl, rfl, rfl⟩
theorem test_witness_ShiftResults :
    condHolds .n ready.flags = true ∧ (Instr.asrShort .n .sp 0b001).wellFormed = true ∧
    (Instr.asrShort .n .sp 0b111).wellFormed = true ∧ readByte ready.pc ready = .next 0x34 ∧
    readByte (ready.pc + 1#16) ready = .next 0x12 := ⟨rfl, rfl, rfl, rfl, rfl⟩
theorem test_witness_RotateResults :
    condHolds .n ready.flags = true ∧ (Instr.rolShort .n .sp 0b001).wellFormed = true ∧
    (Instr.rolShort .n .sp 0b111).wellFormed = true ∧ readByte ready.pc ready = .next 0x34 ∧
    readByte (ready.pc + 1#16) ready = .next 0x12 := ⟨rfl, rfl, rfl, rfl, rfl⟩
theorem test_witness_RotateThroughCarryResults :
    condHolds .n ready.flags = true ∧ (Instr.rrcShort .n .sp 0b001).wellFormed = true ∧
    (Instr.rrcShort .n .sp 0b111).wellFormed = true ∧ readByte ready.pc ready = .next 0x34 ∧
    readByte (ready.pc + 1#16) ready = .next 0x12 := ⟨rfl, rfl, rfl, rfl, rfl⟩
theorem test_witness_LdiResult :
    condHolds .always ready.flags = true ∧ readByte (readReg .r1 ready) ready = .next 0xBC ∧
    readByte (readReg .r1 ready + 1#16) ready = .next 0x9A ∧ readByte ready.pc ready = .next 0x34 ∧
    readByte (ready.pc + 1#16) ready = .next 0x12 ∧ readByte ((0x12 : Byte) ++ (0x34 : Byte)) ready = .next 0x78 ∧
    readByte ((0x12 : Byte) ++ (0x34 : Byte) + 1#16) ready = .next 0x56 := ⟨rfl, rfl, rfl, rfl, rfl, rfl, rfl⟩
theorem test_witness_StiResult :
    condHolds .always ready.flags = true ∧ kindAt ready (readReg .r1 ready) = .ram ∧
    kindAt ready (readReg .r1 ready + 1#16) = .ram := by decide
theorem test_witness_PushResult :
    condHolds .always ready.flags = true ∧ kindAt ready (readReg .sp ready - 1#16) = .ram ∧
    kindAt ready (readReg .sp ready - 2#16) = .ram := by decide
theorem test_witness_PopResult :
    condHolds .always ready.flags = true ∧ readByte (readReg .sp ready) ready = .next 0xCD ∧
    readByte (readReg .sp ready + 1#16) ready = .next 0xAB ∧ Reg.r3 ≠ .sp := ⟨rfl, rfl, rfl, by decide⟩
theorem test_witness_PushThenPop :
    Reg.r3 ≠ .sp ∧ kindAt ready (readReg .sp ready - 1#16) = .ram ∧
    kindAt ready (readReg .sp ready - 2#16) = .ram := by decide
theorem test_witness_JumpResult :
    condHolds .n ready.flags = true ∧ readByte ready.pc ready = .next 0x34 ∧
    readByte (ready.pc + 1#16) ready = .next 0x12 := ⟨rfl, rfl, rfl⟩
theorem test_witness_CallRegisterResult :
    condHolds .n ready.flags = true ∧ kindAt ready (readReg .sp ready - 1#16) = .ram ∧
    kindAt ready (readReg .sp ready - 2#16) = .ram := by decide
/-- The immediate away from the stack, and both its bytes under the push (SP-2 is pc). -/
theorem test_witness_CallLongResult :
    condHolds .n ready.flags = true ∧ kindAt ready (readReg .sp ready - 1#16) = .ram ∧
    kindAt ready (readReg .sp ready - 2#16) = .ram ∧
    ready.pc ≠ readReg .sp ready - 1#16 ∧ ready.pc + 1#16 ≠ readReg .sp ready - 1#16 ∧
    ready.pc ≠ readReg .sp ready - 2#16 ∧ ready.pc + 1#16 ≠ readReg .sp ready - 2#16 ∧
    readByte ready.pc ready = .next 0x34 ∧ readByte (ready.pc + 1#16) ready = .next 0x12 ∧
    (setPc 0x7FFE ready).pc = readReg .sp (setPc 0x7FFE ready) - 2#16 ∧
    (setPc 0x7FFE ready).pc + 1#16 = readReg .sp (setPc 0x7FFE ready) - 1#16 ∧
    lowByte ((setPc 0x7FFE ready).pc + 2#16) = 0x00 ∧ highByte ((setPc 0x7FFE ready).pc + 2#16) = 0x80 :=
  ⟨rfl, rfl, rfl, by decide, by decide, by decide, by decide, rfl, rfl, by decide, by decide, by decide, by decide⟩
theorem test_witness_RetResult :
    condHolds .n ready.flags = true ∧ readByte (readReg .sp ready) ready = .next 0xCD ∧
    readByte (readReg .sp ready + 1#16) ready = .next 0xAB := ⟨rfl, rfl, rfl⟩
theorem test_witness_InterruptThenRet :
    requested.pending = true ∧ kindAt requested (readReg .sp requested - 1#16) = .ram ∧
    kindAt requested (readReg .sp requested - 2#16) = .ram := by decide
theorem test_witness_XcgResult : condHolds .n ready.flags = true := rfl
theorem test_witness_FlgResult :
    condHolds .n ready.flags = true ∧ readByte ready.pc ready = .next 0x34 := ⟨rfl, rfl⟩
theorem test_witness_FlagsTable :
    condHolds .n ready.flags = true ∧ (∃ t, exec (.xcg .n .r0 .r1) ready = .next t) ∧
    (∃ t, exec (.sexReg .n .r0 .r1) ready = .next t) ∧ (∃ t, exec (.cbsReg .n .r0 .r1) ready = .next t) ∧
    (∃ t, exec (.notReg .n .r0 .r1) ready = .next t) ∧ (∃ t, exec (.rlcReg .n .r0 .r1) ready = .next t) :=
  ⟨rfl, ⟨_, rfl⟩, ⟨_, rfl⟩, ⟨_, rfl⟩, ⟨_, rfl⟩, ⟨_, rfl⟩⟩
theorem test_witness_MemoryWriters :
    (Instr.pop .always .r0).fields.opcode ∉ [.sti, .push, .call] ∧ ∃ t, exec (.pop .always .r0) ready = .next t :=
  ⟨by decide, _, rfl⟩
theorem test_witness_PcSequence :
    (Instr.addLong .n .r0).fields.opcode ∉ [.j, .call, .ret] ∧
    condHolds (Instr.addLong .n .r0).cond ready.flags = true ∧ ∃ t, exec (.addLong .n .r0) ready = .next t :=
  ⟨by decide, rfl, _, rfl⟩
theorem test_witness_PendingAndParameters :
    (∃ t, exec (.push .always .r1) ready = .next t) ∧ (∃ t, step requested = .next t) ∧
    ∃ t, step (running [0xA0, 0x41]) = .next t := ⟨⟨_, rfl⟩, ⟨_, rfl⟩, _, rfl⟩
theorem test_witness_ResetAtBoundary : State.reset.atBoundary ∧ (running [0xA0, 0x41]).atBoundary :=
  ⟨⟨rfl, rfl, .inl (by decide)⟩, ⟨rfl, rfl, .inl (by decide)⟩⟩
theorem test_witness_StepKeepsBoundary :
    (running [0x10, 0x4C]).atBoundary ∧ ∃ t, step (running [0x10, 0x4C]) = .next t :=
  ⟨⟨rfl, rfl, .inl (by decide)⟩, _, rfl⟩
/-- A push with ROM at 0x9000. -/
theorem test_witness_RomNeverWritten :
    (∃ t, step (withMap [⟨0x9000, 0x9000, .rom⟩] (running [0x60, 0x01])) = .next t) ∧
    kindAt (withMap [⟨0x9000, 0x9000, .rom⟩] (running [0x60, 0x01])) 0x9000 ≠ .ram := ⟨⟨_, rfl⟩, by decide⟩
theorem test_witness_FaultsAreJustified :
    step (withMap [⟨0x7FFF, 0x7FFF, .rom⟩] (running [0x60, 0x01])) = .fault (.badAccess 0x7FFF) ∧
    step (running [0xA0]) = .fault (.uninitialised 0x0101) := ⟨rfl, rfl⟩
theorem test_witness_RefusalsAreReserved : step (running [0x38, 0x41]) = .refused .reservedForm := rfl
/-- Two states that differ in the hidden registers and in the counter of free values only. -/
theorem test_witness_HiddenStateIsHidden :
    visible { setAB 1 2 ready with freeCtr := 7 } = visible ready ∧ { setAB 1 2 ready with freeCtr := 7 } ≠ ready := by
  decide
theorem test_witness_EndedStays :
    (running [0x70, 0x06]).ended = true ∧ (running [0x70, 0x44, 0x00, 0x01]).ended = true := by decide
theorem test_witness_ReadAfterWrite : ∃ t, writeByte 0xFFFF 0x5A ready = .next t := ⟨_, rfl⟩
theorem test_witness_MicrocodeOfTwoOperand :
    Opcode.add ∈ [Opcode.neg, .cmp, .add] ∧ (running [0xA0, 0x44, 0x34, 0x12]).hid.counter = 0 ∧
    (running [0xA0, 0x44, 0x34, 0x12]).pending = false ∧
    (∃ s1, fetch (running [0xA0, 0x44, 0x34, 0x12]) = .next (.addLong .always .r0, s1)) ∧
    (Instr.addLong .always .r0).isReserved = false ∧
    condHolds (Instr.addLong .always .r0).cond (running [0xA0, 0x44, 0x34, 0x12]).flags = true :=
  ⟨by decide, rfl, rfl, ⟨_, rfl⟩, rfl, rfl⟩
/-- CALL long, where the parameter is the printed listing's. -/
def callsAsPrinted : State :=
  let s := running [0x78, 0x44, 0x34, 0x12]
  { s with platform := { s.platform with callImmReturn := .immediateAddress } }
theorem test_witness_MicrocodeOfMemoryAndControl :
    callsAsPrinted.hid.counter = 0 ∧ callsAsPrinted.pending = false ∧
    (∃ s1, fetch callsAsPrinted = .next (.callLong .always, s1)) ∧ (Instr.callLong .always).isReserved = false ∧
    condHolds (Instr.callLong .always).cond callsAsPrinted.flags = true ∧
    callsAsPrinted.platform.callImmReturn = .immediateAddress := ⟨rfl, rfl, ⟨_, rfl⟩, rfl, rfl, rfl⟩
theorem test_witness_MicrocodeOfBits :
    (running [0x40, 0x01]).hid.counter = 0 ∧ (running [0x40, 0x01]).pending = false ∧
    (∃ s1, fetch (running [0x40, 0x01]) = .next (.clzReg .always .r0 .r1, s1)) ∧
    (Instr.clzReg .always .r0 .r1).isReserved = false ∧
    condHolds (Instr.clzReg .always .r0 .r1).cond (running [0x40, 0x01]).flags = true :=
  ⟨rfl, rfl, ⟨_, rfl⟩, rfl, rfl⟩
theorem test_witness_MicrocodeOfInterrupt : requested.hid.counter = 0 ∧ requested.pending = true := ⟨rfl, rfl⟩
theorem test_witness_ListingShape :
    (∃ ops, listing .add .longImmediate = some ops) ∧ (∃ ops, listing .add .interrupt = some ops) ∧
    listing .xcg .shortImmediate = none := ⟨⟨_, rfl⟩, ⟨_, rfl⟩, rfl⟩
/-- `wf` alone is a word the control store does not hold: no listing writes flags without a source on the bus. -/
theorem test_witness_ListingShape_word (o : Opcode) (m : Mode) (state : Nat) :
    controlStore o m state ≠ some 0x000001 := by
  intro h
  rcases controlStore_eq_some _ _ _ _ h with h | ⟨u, hu, h⟩
  · exact absurd h (by decide)
  · obtain ⟨o, m, ops, hl, hu⟩ := (standard_iff u).1 hu
    have other : ∀ u ∈ ops, u.encode ≠ 0x000001 := by
      cases o <;> cases m <;> simp only [listing, listingShort, listingLong, Option.some.injEq, reduceCtorEq] at hl <;>
        subst hl <;> decide
    exact other u hu h
theorem test_witness_SpellingUnambiguous :
    spelling .adc .c = spelling .adc .c ∧ spelling .adc .c ≠ spelling .add .cc := by decide
/-- A label at the ends of the short form's range, and one only the long form reaches. -/
theorem test_witness_OffsOfLabel :
    condHolds .n ready.flags = true ∧ (offsToLabel .n .r6 (ready.pc - 2#16) 0x00FA).instr = .offsShort .n .r6 0b101 ∧
    (offsToLabel .n .r6 (ready.pc - 2#16) 0x0106).instr = .offsShort .n .r6 0b011 ∧
    (offsToLabel .n .r6 (ready.pc - 2#16) 0x1336) = ⟨.offsLong .n .r6, 0x1234⟩ ∧
    readWord ready.pc ready = .next 0x1234 := ⟨rfl, by decide, by decide, by decide, rfl⟩

end Sys2Proof.Tests
end

section
/-! The environment's events (O52), and the microcode against the instruction level (O53 to O55).

The refinement goes in three steps.
`microInstruction_eq_actAll`: at the micro level a whole instruction is its fetch and then the micro-operations of its
listing, run by `actAll` on the data path alone.
`microcodeAgrees_of_opcodes`: it is enough that each listing has the outcome of the instruction's meaning.
The `..._agrees` theorems: it has, opcode by opcode, through one lemma for each micro-operation and one for each
computation of the ALU. -/

namespace Sys2Proof.Microcode

open Sys2Proof Sys2Proof.Machine

/-- Settles O52: each event is a record update, and memory and the parameters are not among its fields. -/
theorem environmentEvents : Obligations.EnvironmentEvents := by
  intro s
  exact ⟨⟨rfl, rfl, rfl, rfl, fun _ => rfl⟩, rfl, rfl, rfl⟩

/-! ## Running a listing -/

/-! ### One micro-operation on the data path -/

/-- The state counter at a given value. -/
def setCounter (k : BitVec 3) (s : State) : State := { s with hid := { s.hid with counter := k } }

/-- A micro-operation without the advance of the state counter. -/
def act (u : MicroOp) (s : State) : Result State :=
  andThen (perform u s) fun t => .next (setCounter s.hid.counter t)

/-- Micro-operations in sequence, the state counter left alone. -/
def actAll (ops : List MicroOp) (s : State) : Result State :=
  match ops with
  | [] => .next s
  | u :: rest => andThen (act u s) (actAll rest)

@[simp] theorem actAll_nil (s : State) : actAll [] s = .next s := rfl
@[simp] theorem actAll_cons (u : MicroOp) (rest : List MicroOp) (s : State) :
    actAll (u :: rest) s = andThen (act u s) (actAll rest) := rfl

/-- All a micro-operation can do: every destination but memory is written from the state before it. -/
theorem perform_eq_next (u : MicroOp) (s t : State) (h : perform u s = .next t) :
    ∃ (bus : Word) (stored : Memory), t = writeBack u bus s stored := by
  obtain ⟨w, -, h⟩ := (andThen_eq_next _ _ _).1 h
  dsimp only at h
  split at h
  · obtain ⟨s1, -, h⟩ := (andThen_eq_next _ _ _).1 h
    exact ⟨_, _, (Host.Outcome.next.inj h).symm⟩
  · exact ⟨_, _, (Host.Outcome.next.inj h).symm⟩

/-- A micro-operation is its action on the data path, and the counter moved on. -/
theorem perform_eq_act (u : MicroOp) (s : State) :
    perform u s = andThen (act u s) fun t => .next (setCounter (s.hid.counter + 1) t) := by
  rw [act, andThen_assoc]
  cases h : perform u s with
  | next t =>
    obtain ⟨bus, stored, rfl⟩ := perform_eq_next u s t h
    rfl
  | fault f => rfl
  | refused f => rfl

/-- The data path changes none of the latched word, the mode and the counter. -/
theorem act_frame (u : MicroOp) (s t : State) (h : act u s = .next t) :
    t.hid.i = s.hid.i ∧ t.hid.mode = s.hid.mode ∧ t.hid.counter = s.hid.counter := by
  obtain ⟨t', hp, h⟩ := (andThen_eq_next _ _ _).1 h
  obtain ⟨bus, stored, rfl⟩ := perform_eq_next u s t' hp
  cases h
  exact ⟨rfl, rfl, rfl⟩

/-- The data path does not look at the counter. -/
theorem act_setCounter (u : MicroOp) (k : BitVec 3) (s : State) :
    act u (setCounter k s) = andThen (act u s) fun t => .next (setCounter k t) := by
  have hbus : busSource u (setCounter k s) = busSource u s := by cases h : u.source <;> simp only [busSource, h] <;> rfl
  have hmem : ∀ (a : Word) (v : Byte), writeByte a v (setCounter k s) =
      andThen (writeByte a v s) fun t => .next (setCounter k t) := by
    intro a v
    simp only [writeByte, show kindAt (setCounter k s) a = kindAt s a from rfl]
    cases kindAt s a <;> rfl
  simp only [act, perform, hbus, andThen_assoc, andThen_next]
  cases busSource u s with
  | fault f => rfl
  | refused f => rfl
  | next w =>
    cases hm : u.toMem
    · rfl
    · have haddr : memAddress u (setCounter k s) = memAddress u s := rfl
      simp only [andThen_next, if_true, andThen_assoc, haddr, hmem]
      rfl

theorem actAll_setCounter (ops : List MicroOp) (k : BitVec 3) (s : State) :
    actAll ops (setCounter k s) = andThen (actAll ops s) fun t => .next (setCounter k t) := by
  induction ops generalizing s with
  | nil => rfl
  | cons u rest ih => simp only [actAll_cons, act_setCounter, andThen_assoc, andThen_next, ih]

theorem actAll_counter (ops : List MicroOp) (s : State) :
    (andThen (actAll ops s) fun t => .next (setCounter s.hid.counter t)) = actAll ops s :=
  (actAll_setCounter ops s.hid.counter s).symm

/-! ### From the control store to the micro-operations of a listing -/

/-- Every micro-operation of the standard microcode is read back from its control word, which is not the end word. -/
theorem standard_decodes (u : MicroOp) (h : u.standard = true) :
    decodeControl u.encode = some u ∧ u.encode ≠ 0 := by
  obtain ⟨o, m, ops, hl, hu⟩ := (standard_iff u).1 h
  clear h
  revert u
  cases o <;> cases m <;> simp only [listing, listingShort, listingLong, Option.some.injEq, reduceCtorEq] at hl <;>
    subst hl <;> decide

theorem runWord_encode (u : MicroOp) (s : State) (h : u.standard = true) : runWord u.encode s = perform u s :=
  runWord_standard _ u s (standard_decodes u h).2 (standard_decodes u h).1 h

theorem listing_length_le (o : Opcode) (m : Mode) (ops : List MicroOp) (h : listing o m = some ops) :
    ops.length ≤ 8 := by
  cases o <;> cases m <;> simp only [listing, listingShort, listingLong, Option.some.injEq, reduceCtorEq] at h <;>
    subst h <;> decide

/-- R222: states 0 and 1 of an instruction's listing are the same in every mode of its opcode. -/
theorem listing_head (o : Opcode) (m : Mode) (ops : List MicroOp) (hm : m ≠ .interrupt) (h : listing o m = some ops) :
    ∃ (second : MicroOp) (rest : List MicroOp),
      ops = opFirst :: second :: rest ∧ (listingRegister o)[1]? = some second := by
  cases m with
  | interrupt => exact absurd rfl hm
  | register => cases o <;> cases h <;> exact ⟨_, _, rfl, rfl⟩
  | shortImmediate => cases o <;> cases h <;> exact ⟨_, _, rfl, rfl⟩
  | longImmediate => cases o <;> cases h <;> exact ⟨_, _, rfl, rfl⟩

theorem runStored_some (o : Opcode) (m : Mode) (k : Nat) (ops : List MicroOp) (u : MicroOp) (s : State)
    (hl : listing o m = some ops) (hu : ops[k]? = some u) : runStored o m k s = perform u s := by
  simp only [runStored, controlStore, hl, hu]
  exact runWord_encode u s (standard_of_listing o m ops u hl (List.mem_of_getElem? hu))

theorem runStored_end (o : Opcode) (m : Mode) (k : Nat) (ops : List MicroOp) (s : State)
    (hl : listing o m = some ops) (hk : ops[k]? = none) : runStored o m k s = .next (setCounter 0 s) := by
  simp only [runStored, controlStore, hl, hk]
  rfl

theorem microStep_of_two_le (s : State) (h : 2 ≤ s.hid.counter.toNat) :
    microStep s = runStored (opcodeOf s.hid.i) s.hid.mode s.hid.counter.toNat s := by
  unfold microStep
  split
  · omega
  · omega
  · rfl

/-! ### Running a listing -/

theorem microRun_succ (n : Nat) (s : State) :
    microRun (n + 1) s = andThen (microStep s) fun t => if t.hid.counter = 0 then .next t else microRun n t := rfl

/-- With no fuel left, stopping at counter 0 and running on are the same. -/
theorem stop_or_microRun (n : Nat) (t : State) (h : t.hid.counter = 0 → n = 0) :
    (if t.hid.counter = 0 then .next t else microRun n t) = microRun n t := by
  by_cases hz : t.hid.counter = 0
  · rw [if_pos hz, h hz]; rfl
  · rw [if_neg hz]

/-- Running on from a micro-operation of a listing, when what runs on from the state after it is known. -/
theorem perform_then_microRun {ops : List MicroOp} {u : MicroOp} {s : State} {n k : Nat} (hk : k + (n + 1) = 8)
    (hc : s.hid.counter = BitVec.ofNat 3 k) (hu : ops[k]? = some u)
    (hnext : ∀ t : State, t.hid.i = s.hid.i → t.hid.mode = s.hid.mode → t.hid.counter = BitVec.ofNat 3 (k + 1) →
      microRun n t = andThen (actAll (ops.drop (k + 1)) t) fun t => .next (setCounter 0 t)) :
    (andThen (perform u s) fun t => if t.hid.counter = 0 then .next t else microRun n t) =
      andThen (actAll (ops.drop k) s) fun t => .next (setCounter 0 t) := by
  have hdrop : ops.drop k = u :: ops.drop (k + 1) := by
    obtain ⟨hlt, rfl⟩ := List.getElem?_eq_some_iff.1 hu
    exact List.drop_eq_getElem_cons hlt
  have hcounter : s.hid.counter + 1 = BitVec.ofNat 3 (k + 1) := by rw [hc, BitVec.ofNat_add]; rfl
  rw [hdrop, actAll_cons, perform_eq_act, andThen_assoc, andThen_assoc]
  cases h : act u s with
  | fault f => rfl
  | refused f => rfl
  | next t =>
    obtain ⟨hi, hm, -⟩ := act_frame u s t h
    have hrun := hnext (setCounter (s.hid.counter + 1) t) hi hm hcounter
    rw [actAll_setCounter, andThen_assoc] at hrun
    refine (stop_or_microRun n _ fun hz => ?_).trans hrun
    have hmod := congrArg BitVec.toNat (hcounter.symm.trans hz)
    rw [BitVec.toNat_ofNat, show (0 : BitVec 3).toNat = 0 from rfl] at hmod
    omega

/-- From state 2 on the machine runs the rest of the listing and leaves the counter at 0 (R220, R221, R232). -/
theorem microRun_eq_actAll {ops : List MicroOp} (n k : Nat) (s : State) (hk : k + n = 8) (h2 : 2 ≤ k)
    (hc : s.hid.counter = BitVec.ofNat 3 k) (hl : listing (opcodeOf s.hid.i) s.hid.mode = some ops) :
    microRun n s = andThen (actAll (ops.drop k) s) fun t => .next (setCounter 0 t) := by
  induction n generalizing k s with
  | zero =>
    have hlen := listing_length_le _ _ _ hl
    have hzero : s.hid.counter = 0 := by rw [hc, show k = 8 by omega]; rfl
    rw [List.drop_eq_nil_of_le (by omega), actAll_nil, andThen_next, ← hzero]
    rfl
  | succ n ih =>
    have hck : s.hid.counter.toNat = k := by rw [hc, BitVec.toNat_ofNat]; omega
    rw [microRun_succ, microStep_of_two_le s (by omega), hck]
    cases hu : ops[k]? with
    | none =>
      rw [runStored_end _ _ _ _ _ hl hu, List.drop_eq_nil_of_le (List.getElem?_eq_none_iff.1 hu)]
      rfl
    | some u =>
      rw [runStored_some _ _ _ _ u _ hl hu]
      refine perform_then_microRun (by omega) hc hu fun t hi hm ht => ih (k + 1) t (by omega) (by omega) ht ?_
      rw [hi, hm, hl]

/-! ### State 0 and state 1 -/

theorem highByte_wordOfBytes (first second : Byte) : highByte (wordOfBytes first second) = first :=
  highByte_immOfBytes second first

theorem modeSelect_ne_interrupt (w : Word) : modeSelect w ≠ .interrupt := by
  unfold modeSelect
  split
  · split <;> simp
  · simp

/-- What state 0 leaves: the opcode byte in I, A = SP, and pc moved over the byte (R222, R223). -/
def afterState0 (first : Byte) (s : State) : State :=
  setCounter 1 (setA (readReg .sp s) (setPc (s.pc + 1#16)
    { s with hid := { s.hid with i := wordOfBytes first (lowByte s.hid.i), mode := .register } }))

/-- What state 1 latches, before its micro-operation: the whole word in I and its mode, pc not yet moved over the
second byte (R87, R223). -/
def inState1 (w : Word) (s : State) : State := setCounter 1 (setPc (s.pc + 1#16) (latch w s))

theorem perform_opFirst (s : State) (h : s.hid.counter = 0) :
    perform opFirst s = .next (setCounter 1 (setA (readReg .sp s) (setPc (s.pc + 1#16) s))) := by
  simp [perform, busSource, opFirst, writeBack, h, setA, setPc, setCounter, selectedReg, nextA, nextPc, busValue]

theorem microStep_state0 (s : State) (first : Byte) (hc : s.hid.counter = 0) (hp : s.pending = false)
    (h : readByte s.pc s = .next first) : microStep s = .next (afterState0 first s) := by
  have hstep : microStep s = microState0 s := by simp [microStep, hc]
  have hstd : opFirst.standard = true := standard_of_listing .ld .register _ _ rfl (List.mem_cons_self ..)
  have hnp : ¬s.pending = true := by simp [hp]
  simp only [hstep, microState0, if_neg hnp, latchHigh, h, andThen_next, runWord_encode _ _ hstd]
  exact perform_opFirst _ hc

theorem microStep_state1 (s : State) (first second : Byte) (h : readByte (s.pc + 1#16) s = .next second) :
    microStep (afterState0 first s) =
      runStored (opcodeOf (wordOfBytes first second)) .register 1 (inState1 (wordOfBytes first second) s) := by
  have hread : readByte (afterState0 first s).pc (afterState0 first s) = .next second := h
  have hhigh : highByte (afterState0 first s).hid.i = first := highByte_wordOfBytes _ _
  show microState1 (afterState0 first s) = _
  simp only [microState1, show (afterState0 first s).hid.mode = .register from rfl, reduceCtorEq, if_false, latchLow,
    hread, andThen_next, hhigh]
  rfl

/-- At the micro level a whole instruction is its fetch and then the micro-operations of its listing from state 1 on,
before the `pc+` of state 1. -/
theorem microInstruction_eq_actAll {s s1 : State} {i : Instr} {ops : List MicroOp} (hc : s.hid.counter = 0)
    (hp : s.pending = false) (hf : fetch s = .next (i, s1)) (hl : listing (opcodeOf s1.hid.i) s1.hid.mode = some ops) :
    microInstruction s = actAll ops.tail (setPc (s1.pc - 1#16) s1) := by
  obtain ⟨first, second, h1, h2, -, rfl⟩ := (fetch_eq_next s i s1).1 hf
  obtain ⟨u, rest, rfl, hu⟩ := listing_head _ _ _ (modeSelect_ne_interrupt _) hl
  have hstate1 : microStep (afterState0 first s) = perform u (inState1 (wordOfBytes first second) s) := by
    rw [microStep_state1 s first second h2]
    exact runStored_some _ .register 1 _ u _ rfl hu
  have hrest := perform_then_microRun (n := 6) (k := 1) (s := inState1 (wordOfBytes first second) s)
    (ops := opFirst :: u :: rest) (u := u) rfl rfl rfl
    fun t hi hm ht => microRun_eq_actAll 6 2 t rfl le_rfl ht (by rw [hi, hm]; exact hl)
  have hpc : (latch (wordOfBytes first second) s).pc - 1#16 = s.pc + 1#16 := by rw [latch_pc]; bv_omega
  calc microInstruction s
      = microRun 7 (afterState0 first s) := by
        rw [microInstruction, microRun_succ, microStep_state0 s first hc hp h1]; rfl
    _ = andThen (actAll (u :: rest) (inState1 (wordOfBytes first second) s)) fun t => .next (setCounter 0 t) := by
        rw [microRun_succ, hstate1]; exact hrest
    _ = actAll (u :: rest) (setPc (s.pc + 1#16) (latch (wordOfBytes first second) s)) := by
        rw [inState1, actAll_setCounter, andThen_assoc]; exact actAll_counter _ _
    _ = _ := by rw [hpc]; rfl

/-! ## The micro-operations and the ALU -/

/-! ### The fields of the latched word -/

/-- The registers and the condition of an instruction word. -/
def srcReg (w : Word) : Reg := Reg.ofCode (sourceField w)
def dstReg (w : Word) : Reg := Reg.ofCode (rdField w)
def condOf (w : Word) : Cond := Cond.ofCode (condField w)

/-! ### Updates in another order or twice -/

@[simp] theorem setA_setA (x y : Word) (s : State) : setA x (setA y s) = setA x s := rfl
@[simp] theorem setPc_setPc (x y : Word) (s : State) : setPc x (setPc y s) = setPc x s := rfl
@[simp] theorem setPc_self (s : State) : setPc s.pc s = s := rfl
@[simp] theorem setPc_pred_succ (s : State) : setPc (s.pc - 1#16 + 1#16) s = s := by
  rw [BitVec.sub_add_cancel, setPc_self]

theorem writeByte_setAB (a x y : Word) (v : Byte) (s : State) :
    writeByte a v (setAB x y s) = andThen (writeByte a v s) fun t => .next (setAB x y t) := by
  simp only [writeByte, kindAt_setAB]
  cases kindAt s a <;> rfl

/-! ### What each micro-operation does -/

/-- The destinations of a micro-operation other than memory, the request and the counter, with `bus` on the bus. -/
def drive (u : MicroOp) (bus : Word) (s : State) : State :=
  { s with
    regs := if u.toReg then s.regs.set (selectedReg u.select s) bus else s.regs
    pc := nextPc u bus s
    flags := if u.wf then (aluOutput u s).flags else s.flags
    hid := { s.hid with a := nextA u bus s, b := if u.toB then bus else s.hid.b } }

theorem setCounter_writeBack (u : MicroOp) (bus : Word) (s : State) (stored : Memory) (ha : u.ack = false) :
    setCounter s.hid.counter (writeBack u bus s stored) = drive u bus { s with mem := stored } := by
  have hpending : (s.pending && !u.ack) = s.pending := by rw [ha, Bool.not_false, Bool.and_true]
  simp only [setCounter, writeBack, hpending]
  rfl

theorem act_of_bus {u : MicroOp} {s : State} {w : Word} (hm : u.toMem = false) (ha : u.ack = false)
    (hb : busSource u s = .next w) : act u s = .next (drive u (busValue u w) s) := by
  simp only [act, perform, hb, andThen_next, hm, Bool.false_eq_true, if_false, setCounter_writeBack _ _ _ _ ha]

theorem act_of_mem {u : MicroOp} {s : State} (hm : u.toMem = false) (ha : u.ack = false) (hs : u.source = .mem) :
    act u s = andThen (readByte (memAddress u s) s) fun b => .next (drive u (busValue u (b.setWidth 16)) s) := by
  simp only [act, perform, busSource, hs, andThen_assoc, andThen_next, hm, Bool.false_eq_true, if_false,
    setCounter_writeBack _ _ _ _ ha]

theorem act_of_store {u : MicroOp} {s : State} {w : Word} (hm : u.toMem = true) (ha : u.ack = false)
    (hb : busSource u s = .next w) :
    act u s = andThen (writeByte (memAddress u s) (lowByte (busValue u w)) s) fun t =>
      .next (drive u (busValue u w) t) := by
  simp only [act, perform, hb, andThen_assoc, andThen_next, hm, if_true, setCounter_writeBack _ _ _ _ ha]
  simp only [writeByte]
  cases kindAt s (memAddress u s) <;> rfl

@[simp] theorem act_opPcInc (s : State) : act opPcInc s = .next (setPc (s.pc + 1#16) s) := act_of_bus rfl rfl rfl
@[simp] theorem act_opOnePcInc (s : State) : act opOnePcInc s = .next (setAB 1 1 (setPc (s.pc + 1#16) s)) :=
  act_of_bus rfl rfl rfl
@[simp] theorem act_opZeroBDecPcInc (s : State) :
    act opZeroBDecPcInc s = .next (setAB (s.hid.a - 1#16) 0 (setPc (s.pc + 1#16) s)) := act_of_bus rfl rfl rfl
@[simp] theorem act_opRsToA (s : State) : act opRsToA s = .next (setA (readReg (srcReg s.hid.i) s) s) :=
  act_of_bus rfl rfl rfl
@[simp] theorem act_opRsToB (s : State) : act opRsToB s = .next (setB (readReg (srcReg s.hid.i) s) s) :=
  act_of_bus rfl rfl rfl
@[simp] theorem act_opRsToAB (s : State) :
    act opRsToAB s = .next (setAB (readReg (srcReg s.hid.i) s) (readReg (srcReg s.hid.i) s) s) :=
  act_of_bus rfl rfl rfl
@[simp] theorem act_opRsToPc (s : State) : act opRsToPc s = .next (setPc (readReg (srcReg s.hid.i) s) s) :=
  act_of_bus rfl rfl rfl
@[simp] theorem act_opRdToA (s : State) : act opRdToA s = .next (setA (readReg (dstReg s.hid.i) s) s) :=
  act_of_bus rfl rfl rfl
@[simp] theorem act_opSpToA (s : State) : act opSpToA s = .next (setA (readReg .sp s) s) := act_of_bus rfl rfl rfl
@[simp] theorem act_opIToA (s : State) : act opIToA s = .next (setA s.hid.i s) := act_of_bus rfl rfl rfl
@[simp] theorem act_opPcToB (s : State) : act opPcToB s = .next (setB s.pc s) := act_of_bus rfl rfl rfl
@[simp] theorem act_opFlagsToA (s : State) : act opFlagsToA s = .next (setA s.flags.toWord s) :=
  act_of_bus rfl rfl rfl
@[simp] theorem act_opZeroToA (s : State) : act opZeroToA s = .next (setA 0 s) := act_of_bus rfl rfl rfl
@[simp] theorem act_opZeroToB (s : State) : act opZeroToB s = .next (setB 0 s) := act_of_bus rfl rfl rfl
@[simp] theorem act_opOneBIncA (s : State) : act opOneBIncA s = .next (setAB (s.hid.a + 1#16) 1 s) :=
  act_of_bus rfl rfl rfl

@[simp] theorem act_opAluA (sel : AluSelect) (s : State) :
    act (opAluA sel) s = .next (setA (aluCompute sel s.hid.a s.hid.b s.flags).value s) := act_of_bus rfl rfl rfl
@[simp] theorem act_opAluB (sel : AluSelect) (s : State) :
    act (opAluB sel) s = .next (setB (aluCompute sel s.hid.a s.hid.b s.flags).value s) := act_of_bus rfl rfl rfl
@[simp] theorem act_opAluAB (sel : AluSelect) (s : State) :
    act (opAluAB sel) s = .next (setAB (aluCompute sel s.hid.a s.hid.b s.flags).value
      (aluCompute sel s.hid.a s.hid.b s.flags).value s) := act_of_bus rfl rfl rfl
@[simp] theorem act_opAluRd (sel : AluSelect) (s : State) :
    act (opAluRd sel) s = .next (writeReg (dstReg s.hid.i) (aluCompute sel s.hid.a s.hid.b s.flags).value s) :=
  act_of_bus rfl rfl rfl
@[simp] theorem act_opAluSp (sel : AluSelect) (s : State) :
    act (opAluSp sel) s = .next (writeReg .sp (aluCompute sel s.hid.a s.hid.b s.flags).value s) :=
  act_of_bus rfl rfl rfl
@[simp] theorem act_opAluPc (sel : AluSelect) (s : State) :
    act (opAluPc sel) s = .next (setPc (aluCompute sel s.hid.a s.hid.b s.flags).value s) := act_of_bus rfl rfl rfl
@[simp] theorem act_opAluWf (sel : AluSelect) (s : State) :
    act (opAluWf sel) s = .next (setFlags (aluCompute sel s.hid.a s.hid.b s.flags).flags s) := act_of_bus rfl rfl rfl
@[simp] theorem act_opAluRdWf (sel : AluSelect) (s : State) :
    act (opAluRdWf sel) s = .next (setFlags (aluCompute sel s.hid.a s.hid.b s.flags).flags
      (writeReg (dstReg s.hid.i) (aluCompute sel s.hid.a s.hid.b s.flags).value s)) := act_of_bus rfl rfl rfl

@[simp] theorem act_opImmLoA (s : State) :
    act opImmLoA s = andThen (readByte s.pc s) fun b => .next (setA (b.setWidth 16) (setPc (s.pc + 1#16) s)) :=
  act_of_mem rfl rfl rfl
@[simp] theorem act_opImmLoB (s : State) :
    act opImmLoB s = andThen (readByte s.pc s) fun b => .next (setB (b.setWidth 16) (setPc (s.pc + 1#16) s)) :=
  act_of_mem rfl rfl rfl
@[simp] theorem act_opImmHiA (s : State) :
    act opImmHiA s = andThen (readByte s.pc s) fun b =>
      .next (setA (swapBytes (b.setWidth 16)) (setPc (s.pc + 1#16) s)) := act_of_mem rfl rfl rfl
@[simp] theorem act_opImmHiB (s : State) :
    act opImmHiB s = andThen (readByte s.pc s) fun b =>
      .next (setB (swapBytes (b.setWidth 16)) (setPc (s.pc + 1#16) s)) := act_of_mem rfl rfl rfl
@[simp] theorem act_opLoadLoB (s : State) :
    act opLoadLoB s = andThen (readByte s.hid.a s) fun b => .next (setAB (s.hid.a + 1#16) (b.setWidth 16) s) :=
  act_of_mem rfl rfl rfl
@[simp] theorem act_opLoadHiA (s : State) :
    act opLoadHiA s = andThen (readByte s.hid.a s) fun b => .next (setA (swapBytes (b.setWidth 16)) s) :=
  act_of_mem rfl rfl rfl

/-! ### Bytes on the bus -/

theorem lowByte_setWidth (b : Byte) : lowByte (b.setWidth 16) = b := by
  ext i h
  simp [lowByte, h, show i < 16 by omega]

theorem highByte_setWidth (b : Byte) : highByte (b.setWidth 16) = 0 := by
  ext i h
  simp [highByte]

theorem lowByte_swapBytes (w : Word) : lowByte (swapBytes w) = highByte w := lowByte_immOfBytes _ _

theorem lowPart_immOfBytes (lo hi : Byte) : lowPart (immOfBytes lo hi) = lo.setWidth 16 := by
  rw [lowPart, lowByte_immOfBytes]

theorem swapBytes_setWidth (lo hi : Byte) : swapBytes (hi.setWidth 16) = highPart (immOfBytes lo hi) := by
  rw [swapBytes, lowByte_setWidth, highByte_setWidth, highPart, highByte_immOfBytes]

/-- The two bytes of a word, moved one by one, make the word again (R225, R227). -/
theorem highPart_or_lowPart (w : Word) : highPart w ||| lowPart w = w := by
  apply BitVec.eq_of_getLsbD_eq
  intro i h
  simp only [highPart, lowPart, highByte, lowByte, BitVec.getLsbD_or, BitVec.getLsbD_append, BitVec.getLsbD_setWidth,
    BitVec.getLsbD_extractLsb']
  by_cases h8 : i < 8
  · simp [h, h8]
  · simp [h8, show i - 8 < 8 by omega, show 8 + (i - 8) = i by omega]

theorem lowPart_or_highPart (w : Word) : lowPart w ||| highPart w = w := by
  rw [BitVec.or_comm, highPart_or_lowPart]

/-! ### The ALU under the selects of the listings (R234) -/

theorem aluCompute_and (a b : Word) (f : Flags) : aluCompute aluAnd a b f = andAlu a b f := by
  have hnot : ~~~(~~~(a &&& b)) = a &&& b := BitVec.not_not
  simp only [aluCompute, aluCore, aluFlags, aluAnd, invertIf, keepingCV, andAlu, if_true, Bool.false_eq_true, if_false,
    hnot]

theorem not_and_not (a b : Word) : ~~~(~~~a &&& ~~~b) = a ||| b := by
  rw [BitVec.not_and, BitVec.not_not, BitVec.not_not]

theorem aluCompute_or (a b : Word) (f : Flags) : aluCompute aluOr a b f = orAlu a b f := by
  simp only [aluCompute, aluCore, aluFlags, aluOr, invertIf, keepingCV, orAlu, if_true, Bool.false_eq_true, if_false,
    not_and_not]

theorem aluCompute_nor (a b : Word) (f : Flags) : aluCompute aluNor a b f = notAlu (a ||| b) f := by
  simp only [aluCompute, aluCore, aluFlags, aluNor, invertIf, keepingCV, notAlu, if_true, not_and_not]

@[simp] theorem aluCompute_or_value (a b : Word) (f : Flags) : (aluCompute aluOr a b f).value = a ||| b := by
  rw [aluCompute_or]; rfl

/-- The signed short immediate as the listings compute it from I (R244). -/
@[simp] theorem aluCompute_s3bf_value (a b : Word) (f : Flags) :
    (aluCompute selS3bf a b f).value = shortSigned (sourceField a) := by
  have h : a.setWidth 3 = sourceField a := BitVec.setWidth_eq_extractLsb' (by omega)
  show (a.setWidth 3).signExtend 16 = _
  rw [h, shortSigned]

/-! ## A listing against the meaning of an instruction -/

/-! ### The shared parts of the listings -/

/-- Two bytes read one after the other at successive addresses are a word read; `move` is what is done with the two bus
values. -/
theorem andThen_readByte_readByte {α : Type} (a : Word) (s : State) (move : Word → Word → Result α) :
    (andThen (readByte a s) fun lo => andThen (readByte (a + 1#16) s) fun hi =>
      move (lo.setWidth 16) (swapBytes (hi.setWidth 16))) =
    andThen (readWord a s) fun v => move (lowPart v) (highPart v) := by
  simp only [readWord, andThen_assoc, andThen_next]
  congr 1; funext lo
  congr 1; funext hi
  rw [lowPart_immOfBytes, swapBytes_setWidth lo]

/-- The low byte of the immediate to B, the high byte to A: the reads of `withLong`. -/
theorem actAll_opImmLoB_opImmHiA (rest : List MicroOp) (s : State) :
    actAll (opImmLoB :: opImmHiA :: rest) s = withLong s fun _ s => actAll rest s := by
  have hpc : s.pc + 1#16 + 1#16 = s.pc + 2#16 := by bv_omega
  simp only [actAll_cons, act_opImmLoB, act_opImmHiA, andThen_assoc, andThen_next, setB_pc, setPc_pc, readByte_setB,
    readByte_setPc, hpc]
  exact andThen_readByte_readByte s.pc s fun lo hi => actAll rest (setAB hi lo (setPc (s.pc + 2#16) s))

/-- The same the other way round, in J and CALL. -/
theorem actAll_opImmLoA_opImmHiB (rest : List MicroOp) (s : State) :
    actAll (opImmLoA :: opImmHiB :: rest) s =
      andThen (readWord s.pc s) fun imm =>
        actAll rest (setAB (lowPart imm) (highPart imm) (setPc (s.pc + 2#16) s)) := by
  have hpc : s.pc + 1#16 + 1#16 = s.pc + 2#16 := by bv_omega
  simp only [actAll_cons, act_opImmLoA, act_opImmHiB, andThen_assoc, andThen_next, setA_pc, setPc_pc, readByte_setA,
    readByte_setPc, hpc]
  exact andThen_readByte_readByte s.pc s fun lo hi => actAll rest (setAB lo hi (setPc (s.pc + 2#16) s))

/-- A word from memory at A: the low byte to B, the high byte to A. -/
theorem actAll_opLoadLoB_opLoadHiA (rest : List MicroOp) (s : State) :
    actAll (opLoadLoB :: opLoadHiA :: rest) s =
      andThen (readWord s.hid.a s) fun v => actAll rest (setAB (highPart v) (lowPart v) s) := by
  simp only [actAll_cons, act_opLoadLoB, act_opLoadHiA, andThen_assoc, andThen_next, setAB_hid_a, readByte_setAB]
  exact andThen_readByte_readByte s.hid.a s fun lo hi => actAll rest (setAB hi lo s)

/-- State 1 of most listings: pc past the instruction word, where `exec` starts. -/
theorem actAll_opPcInc (rest : List MicroOp) (s : State) :
    actAll (opPcInc :: rest) (setPc (s.pc - 1#16) s) = actAll rest s := by
  rw [actAll_cons, act_opPcInc, andThen_next, setPc_setPc, setPc_pc, setPc_pred_succ]

/-- State 1 of the shifts, rotates and SEX. -/
theorem actAll_opOnePcInc (rest : List MicroOp) (s : State) :
    actAll (opOnePcInc :: rest) (setPc (s.pc - 1#16) s) = actAll rest (setAB 1 1 s) := by
  rw [actAll_cons, act_opOnePcInc, andThen_next, setPc_setPc, setPc_pc, setPc_pred_succ]

/-- State 1 of PUSH and CALL. -/
theorem actAll_opZeroBDecPcInc (rest : List MicroOp) (s : State) :
    actAll (opZeroBDecPcInc :: rest) (setPc (s.pc - 1#16) s) = actAll rest (setAB (s.hid.a - 1#16) 0 s) := by
  rw [actAll_cons, act_opZeroBDecPcInc, andThen_next, setPc_setPc, setPc_pc, setPc_pred_succ, setPc_hid_a]

/-! ### The listing of an opcode against the meaning of an instruction -/

/-- The listing of an opcode in a mode, run from the state the fetch leaves, has the outcome `r`. -/
def listingGives (o : Opcode) (m : Mode) (s : State) (r : Result State) : Prop :=
  ∃ ops : List MicroOp, listing o m = some ops ∧ actAll ops.tail (setPc (s.pc - 1#16) s) = r

section
variable {o : Opcode} {m : Mode} {s : State} {i : Instr} {cond : Cond} {f : Form} {rest : List MicroOp}

/-- An instruction whose condition holds agrees with a listing whose state 1 is `pc+` alone. -/
theorem listingGives_of_opPcInc {body : State → Result State}
    (hl : listing o m = some (opFirst :: opPcInc :: rest)) (hi : exec i s = conditionally cond f s body)
    (hcond : condHolds cond s.flags = true) (h : actAll rest s = body s) : listingGives o m s (exec i s) :=
  ⟨_, hl, by rw [hi, conditionally_holds _ _ _ _ hcond, ← h]; exact actAll_opPcInc rest s⟩

/-- State 1 of the shifts, rotates and SEX also puts 1 in A and B. -/
theorem listingGives_of_opOnePcInc {body : State → Result State}
    (hl : listing o m = some (opFirst :: opOnePcInc :: rest)) (hi : exec i s = conditionally cond f s body)
    (hcond : condHolds cond s.flags = true) (h : actAll rest (setAB 1 1 s) = body s) :
    listingGives o m s (exec i s) :=
  ⟨_, hl, by rw [hi, conditionally_holds _ _ _ _ hcond, ← h]; exact actAll_opOnePcInc rest s⟩

/-- State 1 of PUSH and CALL also counts A down and clears B. -/
theorem listingGives_of_opZeroBDecPcInc {body : State → Result State}
    (hl : listing o m = some (opFirst :: opZeroBDecPcInc :: rest)) (hi : exec i s = conditionally cond f s body)
    (hcond : condHolds cond s.flags = true) (h : actAll rest (setAB (s.hid.a - 1#16) 0 s) = body s) :
    listingGives o m s (exec i s) :=
  ⟨_, hl, by rw [hi, conditionally_holds _ _ _ _ hcond, ← h]; exact actAll_opZeroBDecPcInc rest s⟩

/-- A long form whose listing reads the immediate next. -/
theorem listingGives_of_withLong {body : Word → State → Result State}
    (hl : listing o m = some (opFirst :: opPcInc :: opImmLoB :: opImmHiA :: rest))
    (hi : exec i s = conditionally cond f s fun s => withLong s body) (hcond : condHolds cond s.flags = true)
    (h : ∀ imm : Word, actAll rest (setAB (highPart imm) (lowPart imm) (setPc (s.pc + 2#16) s)) =
      body imm (setAB (highPart imm) (lowPart imm) (setPc (s.pc + 2#16) s))) : listingGives o m s (exec i s) :=
  listingGives_of_opPcInc hl hi hcond <| by
    rw [actAll_opImmLoB_opImmHiA]
    exact congrArg (andThen (readWord s.pc s)) (funext h)

end

/-- Every form of an opcode has the outcome of its listing, in a state that a fetch leaves. -/
def opcodeAgrees (o : Opcode) : Prop :=
  ∀ s : State, opcodeOf s.hid.i = o → s.hid.a = readReg .sp s → (decodeWord s.hid.i).isReserved = false →
    condHolds (condOf s.hid.i) s.flags = true →
    (o = .call → (decodeWord s.hid.i).isLong = true → s.platform.callImmReturn = .immediateAddress) →
    listingGives o (modeSelect s.hid.i) s (exec (decodeWord s.hid.i) s)

/-! ### The fields of a decoded instruction -/

/-- What every instruction decoded from a word has of it, whatever its form. -/
def hasFieldsOf (i : Instr) (w : Word) : Prop := i.fields.opcode = opcodeOf w ∧ i.cond = condOf w

theorem decodeWord_hasFieldsOf (w : Word) : hasFieldsOf (decodeWord w) w := by
  have pick : ∀ {p : Prop} [Decidable p] {i j : Instr}, hasFieldsOf i w → hasFieldsOf j w →
      hasFieldsOf (if p then i else j) w := by
    intro p _ i j hi hj
    split
    · exact hi
    · exact hj
  unfold decodeWord decodeSigned decodeUnsigned decodeNoShort decodeAddress decodeRegisterOnly
  split
  all_goals
    rename_i ho
    repeat' apply pick
    all_goals exact ⟨ho.symm, rfl⟩

/-- The reduction of a refinement statement to its opcodes. -/
theorem microcodeAgrees_of_opcodes (opcodes : List Opcode) (h : ∀ o ∈ opcodes, opcodeAgrees o) :
    microcodeAgrees opcodes := by
  intro s s1 i ho hc hp hf hr hcond hcall
  obtain ⟨first, second, -, -, hi, rfl⟩ := (fetch_eq_next s i s1).1 hf
  have hdecode : i = decodeWord (latch (wordOfBytes first second) s).hid.i := hi
  obtain ⟨hopcode, hcondOf⟩ := decodeWord_hasFieldsOf (wordOfBytes first second)
  rw [← hi] at hopcode hcondOf
  rw [hopcode] at ho hcall
  obtain ⟨ops, hl, hrun⟩ := h _ ho (latch (wordOfBytes first second) s) rfl rfl (hdecode ▸ hr) (hcondOf ▸ hcond)
    fun h1 h2 => hcall h1 (hdecode ▸ h2)
  rw [microInstruction_eq_actAll hc hp hf hl, hrun, step_running s hp, hf, ← hdecode]
  rfl

/-- The forms of an opcode with register, short and long source agree with their listings. -/
def formsAgree (o : Opcode) (reg : Cond → Reg → Reg → Instr) (short : Cond → Reg → BitVec 3 → Instr)
    (long : Cond → Reg → Instr) : Prop :=
  ∀ (s : State) (cond : Cond), condHolds cond s.flags = true →
    listingGives o .register s (exec (reg cond (dstReg s.hid.i) (srcReg s.hid.i)) s) ∧
    listingGives o .shortImmediate s (exec (short cond (dstReg s.hid.i) (sourceField s.hid.i)) s) ∧
    listingGives o .longImmediate s (exec (long cond (dstReg s.hid.i)) s)

section
variable {o : Opcode} {reg : Cond → Reg → Reg → Instr} {short : Cond → Reg → BitVec 3 → Instr}
  {long : Cond → Reg → Instr}

/-- An opcode whose decoder tells its three forms by the mode bit and its long marker (R87, R88 to R91). -/
theorem opcodeAgrees_of_forms
    (hd : ∀ w : Word, opcodeOf w = o → decodeWord w =
      if modeBit w then
        if sourceField w = longMarker o then long (condOf w) (dstReg w) else short (condOf w) (dstReg w) (sourceField w)
      else reg (condOf w) (dstReg w) (srcReg w))
    (h : formsAgree o reg short long) : opcodeAgrees o := by
  intro s ho _ _ hcond _
  obtain ⟨hreg, hshort, hlong⟩ := h s _ hcond
  rw [hd _ ho, modeSelect, ho]
  cases modeBit s.hid.i with
  | false => exact hreg
  | true =>
    by_cases hsource : sourceField s.hid.i = longMarker o
    · simpa only [if_true, if_pos hsource] using hlong
    · simpa only [if_true, if_neg hsource] using hshort

/-! ### Families of listings -/

/-- How the meaning of an instruction is built from its work `body` on a destination, a source and a state. -/
structure Meanings (reg : Cond → Reg → Reg → Instr) (short : Cond → Reg → BitVec 3 → Instr) (long : Cond → Reg → Instr)
    (shortValue : BitVec 3 → Word) (body : Reg → Word → State → Result State) : Prop where
  reg : ∀ (cond : Cond) (rd rs : Reg) (s : State),
    exec (reg cond rd rs) s = conditionally cond .twoByte s fun s => body rd (readReg rs s) s
  short : ∀ (cond : Cond) (rd : Reg) (imm : BitVec 3) (s : State),
    exec (short cond rd imm) s = conditionally cond .twoByte s fun s => body rd (shortValue imm) s
  long : ∀ (cond : Cond) (rd : Reg) (s : State),
    exec (long cond rd) s = conditionally cond .long s fun s => withLong s fun imm s => body rd imm s

/-- The listings that bring the source to B and go on with `rest` in every form. -/
structure SourceToB (o : Opcode) (rest : List MicroOp) : Prop where
  reg : listing o .register = some (opFirst :: opPcInc :: opRsToB :: rest)
  short : listing o .shortImmediate = some (opFirst :: opPcInc :: opIToA :: opAluB selS3bf :: rest)
  long : listing o .longImmediate = some (opFirst :: opPcInc :: opImmLoB :: opImmHiA :: opAluB aluOr :: rest)

/-- When `rest` overwrites A, only what it does with the source in B matters. -/
theorem formsAgree_of_sourceToB {rest : List MicroOp} {body : Reg → Word → State → Result State}
    (hl : SourceToB o rest) (hm : Meanings reg short long shortSigned body)
    (hrest : ∀ (x : Word) (s : State), actAll rest (setB x s) = body (dstReg s.hid.i) x s)
    (hA : ∀ (a : Word) (rd : Reg) (x : Word) (s : State), body rd x (setA a s) = body rd x s) :
    formsAgree o reg short long := by
  intro s cond hcond
  refine ⟨listingGives_of_opPcInc hl.reg (hm.reg ..) hcond ?_, listingGives_of_opPcInc hl.short (hm.short ..) hcond ?_,
    listingGives_of_withLong hl.long (hm.long ..) hcond fun imm => ?_⟩
  · rw [actAll_cons, act_opRsToB, andThen_next, hrest]
  · simp only [actAll_cons, act_opIToA, act_opAluB, andThen_next, aluCompute_s3bf_value, hrest, hA, setA_hid_i,
      setA_hid_a]
  · simp only [actAll_cons, act_opAluB, andThen_next, hrest, setAB_hid_a, setAB_hid_b, setAB_hid_i, setPc_hid_i,
      aluCompute_or_value, highPart_or_lowPart]

end

/-! ## Arithmetic, logic, shifts and rotates -/

section
variable {o : Opcode} {reg : Cond → Reg → Reg → Instr} {short : Cond → Reg → BitVec 3 → Instr}
  {long : Cond → Reg → Instr} {rest : List MicroOp} {body : Reg → Word → State → Result State}

/-- The listings of the shifts and rotates, which bring the count to B and go on with `rest` in every form. -/
structure CountToB (o : Opcode) (rest : List MicroOp) : Prop where
  reg : listing o .register = some (opFirst :: opOnePcInc :: opRsToB :: rest)
  short : listing o .shortImmediate = some (opFirst :: opOnePcInc :: opAluAB (aluPlain .addOne) ::
    opAluB (aluPlain .addOne) :: opIToA :: opAluB aluAnd :: rest)
  long : listing o .longImmediate = some (opFirst :: opOnePcInc :: opImmLoB :: opImmHiA :: opAluB aluOr :: rest)

/-- The mask 7 that the short listings of the shifts make of two `add+1`. -/
theorem aluCompute_addOne_mask (f : Flags) :
    (aluCompute (aluPlain .addOne) 1 1 f).value = 3 ∧ (aluCompute (aluPlain .addOne) 3 3 f).value = 7 := ⟨rfl, rfl⟩

theorem and_seven (w : Word) : w &&& 7 = shortUnsigned (sourceField w) := by
  apply BitVec.eq_of_toNat_eq
  have hmod : w.toNat &&& 7 = w.toNat % 8 := Nat.and_two_pow_sub_one_eq_mod w.toNat 3
  have hseven : (7 : Word).toNat = 7 := rfl
  simp only [shortUnsigned, sourceField, BitVec.toNat_and, BitVec.toNat_setWidth, BitVec.extractLsb'_toNat,
    Nat.shiftRight_zero, hseven]
  omega

theorem formsAgree_of_countToB (hl : CountToB o rest) (hm : Meanings reg short long shortUnsigned body)
    (hrest : ∀ (x : Word) (s : State), actAll rest (setB x s) = body (dstReg s.hid.i) x s)
    (hA : ∀ (a : Word) (rd : Reg) (x : Word) (s : State), body rd x (setA a s) = body rd x s)
    (hB : ∀ (b : Word) (rd : Reg) (x : Word) (s : State), body rd x (setB b s) = body rd x s) :
    formsAgree o reg short long := by
  intro s cond hcond
  have hAB : ∀ (a b : Word) (rd : Reg) (x : Word) (s : State), body rd x (setAB a b s) = body rd x s := by
    intro a b rd x s
    rw [setAB, hB, hA]
  have hand : ∀ (w : Word) (f : Flags), (aluCompute aluAnd w 7 f).value = shortUnsigned (sourceField w) := by
    intro w f
    rw [aluCompute_and]
    exact and_seven w
  refine ⟨listingGives_of_opOnePcInc hl.reg (hm.reg ..) hcond ?_,
    listingGives_of_opOnePcInc hl.short (hm.short ..) hcond ?_,
    listingGives_of_opOnePcInc hl.long (hm.long ..) hcond ?_⟩
  · rw [actAll_cons, act_opRsToB, andThen_next, hrest, hAB, readReg_setAB, setAB_hid_i]
  · simp only [actAll_cons, act_opIToA, act_opAluB, act_opAluAB, andThen_next, hrest, hA, hB, hAB, setA_hid_i,
      setA_hid_a, setA_hid_b, setB_hid_i, setB_hid_b, setAB_hid_i, setAB_hid_a, setAB_hid_b, hand,
      (aluCompute_addOne_mask _).1, (aluCompute_addOne_mask _).2]
  · rw [actAll_opImmLoB_opImmHiA, withLong, withLong]
    simp only [actAll_cons, act_opAluB, andThen_next, hrest, setAB_hid_a, setAB_hid_b, setAB_hid_i, setPc_hid_i,
      aluCompute_or_value, highPart_or_lowPart, setAB_pc, readWord_setAB]
    rfl

/-- The listings of the counts, which bring the source to A and go on with `rest` in every form. -/
structure SourceToA (o : Opcode) (rest : List MicroOp) : Prop where
  reg : listing o .register = some (opFirst :: opPcInc :: opRsToA :: rest)
  short : listing o .shortImmediate = some (opFirst :: opPcInc :: opIToA :: opAluA selS3bf :: rest)
  long : listing o .longImmediate = some (opFirst :: opPcInc :: opImmLoB :: opImmHiA :: opAluA aluOr :: rest)

theorem formsAgree_of_sourceToA (hl : SourceToA o rest) (hm : Meanings reg short long shortSigned body)
    (hrest : ∀ (x : Word) (s : State), actAll rest (setA x s) = body (dstReg s.hid.i) x s)
    (hA : ∀ (a : Word) (rd : Reg) (x : Word) (s : State), body rd x (setA a s) = body rd x s) :
    formsAgree o reg short long := by
  intro s cond hcond
  refine ⟨listingGives_of_opPcInc hl.reg (hm.reg ..) hcond ?_, listingGives_of_opPcInc hl.short (hm.short ..) hcond ?_,
    listingGives_of_withLong hl.long (hm.long ..) hcond fun imm => ?_⟩
  · rw [actAll_cons, act_opRsToA, andThen_next, hrest]
  · simp only [actAll_cons, act_opIToA, act_opAluA, andThen_next, aluCompute_s3bf_value, hrest, hA, setA_hid_i,
      setA_hid_a]
  · simp only [actAll_cons, act_opAluA, andThen_next, hrest, setAB_hid_a, setAB_hid_b, setAB_hid_i, setPc_hid_i,
      aluCompute_or_value, highPart_or_lowPart]

/-- The last two micro-operations of the two-operand listings: `rd` to A, and the operation with its flags to `rd`. -/
theorem actAll_opRdToA_opAluRdWf {sel : AluSelect} {alu : Word → Word → Flags → AluOut}
    (halu : ∀ (a b : Word) (f : Flags), aluCompute sel a b f = alu a b f) (x : Word) (s : State) :
    actAll [opRdToA, opAluRdWf sel] (setB x s) = twoOperand alu (dstReg s.hid.i) x s := by
  simp only [actAll_cons, act_opRdToA, act_opAluRdWf, andThen_next, actAll_nil, halu, twoOperand_eq]
  rfl

/-- ADC, ADD, AND, OR, SBC, SUB, XOR (R246 to R248, R264, R272, R275, R277). -/
theorem formsAgree_of_twoOperand {sel : AluSelect} {alu : Word → Word → Flags → AluOut}
    (hl : SourceToB o [opRdToA, opAluRdWf sel]) (hm : Meanings reg short long shortSigned (twoOperand alu))
    (halu : ∀ (a b : Word) (f : Flags), aluCompute sel a b f = alu a b f) : formsAgree o reg short long :=
  formsAgree_of_sourceToB hl hm (actAll_opRdToA_opAluRdWf halu) fun _ _ _ _ => rfl

/-- ASR, LSL, LSR, RLC, ROL, ROR, RRC (R249, R259, R260, R268 to R271). -/
theorem formsAgree_of_shift {sel : AluSelect} {alu : Word → Word → Flags → AluOut}
    (hl : CountToB o [opRdToA, opAluRdWf sel]) (hm : Meanings reg short long shortUnsigned (twoOperand alu))
    (halu : ∀ (a b : Word) (f : Flags), aluCompute sel a b f = alu a b f) : formsAgree o reg short long :=
  formsAgree_of_countToB hl hm (actAll_opRdToA_opAluRdWf halu) (fun _ _ _ _ => rfl) fun _ _ _ _ => rfl

end

/-! ### The opcodes -/

theorem add_agrees : opcodeAgrees .add :=
  opcodeAgrees_of_forms (fun _ h => by rw [decodeWord, h]; rfl) <|
    formsAgree_of_twoOperand (sel := aluPlain .add) ⟨rfl, rfl, rfl⟩
      ⟨fun _ _ _ _ => rfl, fun _ _ _ _ => rfl, fun _ _ _ => rfl⟩ fun _ _ _ => rfl

theorem adc_agrees : opcodeAgrees .adc :=
  opcodeAgrees_of_forms (fun _ h => by rw [decodeWord, h]; rfl) <|
    formsAgree_of_twoOperand (sel := aluPlain .adc) ⟨rfl, rfl, rfl⟩
      ⟨fun _ _ _ _ => rfl, fun _ _ _ _ => rfl, fun _ _ _ => rfl⟩ fun _ _ _ => rfl

theorem sub_agrees : opcodeAgrees .sub :=
  opcodeAgrees_of_forms (fun _ h => by rw [decodeWord, h]; rfl) <|
    formsAgree_of_twoOperand (sel := aluSub) ⟨rfl, rfl, rfl⟩
      ⟨fun _ _ _ _ => rfl, fun _ _ _ _ => rfl, fun _ _ _ => rfl⟩ fun _ _ _ => rfl

theorem sbc_agrees : opcodeAgrees .sbc :=
  opcodeAgrees_of_forms (fun _ h => by rw [decodeWord, h]; rfl) <|
    formsAgree_of_twoOperand (sel := aluSbc) ⟨rfl, rfl, rfl⟩
      ⟨fun _ _ _ _ => rfl, fun _ _ _ _ => rfl, fun _ _ _ => rfl⟩ fun _ _ _ => rfl

theorem and_agrees : opcodeAgrees .andOp :=
  opcodeAgrees_of_forms (fun _ h => by rw [decodeWord, h]; rfl) <|
    formsAgree_of_twoOperand (sel := aluAnd) ⟨rfl, rfl, rfl⟩
      ⟨fun _ _ _ _ => rfl, fun _ _ _ _ => rfl, fun _ _ _ => rfl⟩ aluCompute_and

theorem or_agrees : opcodeAgrees .orOp :=
  opcodeAgrees_of_forms (fun _ h => by rw [decodeWord, h]; rfl) <|
    formsAgree_of_twoOperand (sel := aluOr) ⟨rfl, rfl, rfl⟩
      ⟨fun _ _ _ _ => rfl, fun _ _ _ _ => rfl, fun _ _ _ => rfl⟩ aluCompute_or

theorem xor_agrees : opcodeAgrees .xor :=
  opcodeAgrees_of_forms (fun _ h => by rw [decodeWord, h]; rfl) <|
    formsAgree_of_twoOperand (sel := aluPlain .xor) ⟨rfl, rfl, rfl⟩
      ⟨fun _ _ _ _ => rfl, fun _ _ _ _ => rfl, fun _ _ _ => rfl⟩ fun _ _ _ => rfl

theorem ror_agrees : opcodeAgrees .ror :=
  opcodeAgrees_of_forms (fun _ h => by rw [decodeWord, h]; rfl) <|
    formsAgree_of_shift (sel := aluPlain .ror) ⟨rfl, rfl, rfl⟩
      ⟨fun _ _ _ _ => rfl, fun _ _ _ _ => rfl, fun _ _ _ => rfl⟩ fun _ _ _ => rfl

theorem rol_agrees : opcodeAgrees .rol :=
  opcodeAgrees_of_forms (fun _ h => by rw [decodeWord, h]; rfl) <|
    formsAgree_of_shift (sel := aluPlain .rol) ⟨rfl, rfl, rfl⟩
      ⟨fun _ _ _ _ => rfl, fun _ _ _ _ => rfl, fun _ _ _ => rfl⟩ fun _ _ _ => rfl

theorem rrc_agrees : opcodeAgrees .rrc :=
  opcodeAgrees_of_forms (fun _ h => by rw [decodeWord, h]; rfl) <|
    formsAgree_of_shift (sel := aluPlain .rrc) ⟨rfl, rfl, rfl⟩
      ⟨fun _ _ _ _ => rfl, fun _ _ _ _ => rfl, fun _ _ _ => rfl⟩ fun _ _ _ => rfl

theorem rlc_agrees : opcodeAgrees .rlc :=
  opcodeAgrees_of_forms (fun _ h => by rw [decodeWord, h]; rfl) <|
    formsAgree_of_shift (sel := aluPlain .rlc) ⟨rfl, rfl, rfl⟩
      ⟨fun _ _ _ _ => rfl, fun _ _ _ _ => rfl, fun _ _ _ => rfl⟩ fun _ _ _ => rfl

theorem lsr_agrees : opcodeAgrees .lsr :=
  opcodeAgrees_of_forms (fun _ h => by rw [decodeWord, h]; rfl) <|
    formsAgree_of_shift (sel := aluPlain .lsr) ⟨rfl, rfl, rfl⟩
      ⟨fun _ _ _ _ => rfl, fun _ _ _ _ => rfl, fun _ _ _ => rfl⟩ fun _ _ _ => rfl

theorem lsl_agrees : opcodeAgrees .lsl :=
  opcodeAgrees_of_forms (fun _ h => by rw [decodeWord, h]; rfl) <|
    formsAgree_of_shift (sel := aluPlain .lsl) ⟨rfl, rfl, rfl⟩
      ⟨fun _ _ _ _ => rfl, fun _ _ _ _ => rfl, fun _ _ _ => rfl⟩ fun _ _ _ => rfl

theorem asr_agrees : opcodeAgrees .asr :=
  opcodeAgrees_of_forms (fun _ h => by rw [decodeWord, h]; rfl) <|
    formsAgree_of_shift (sel := aluPlain .asr) ⟨rfl, rfl, rfl⟩
      ⟨fun _ _ _ _ => rfl, fun _ _ _ _ => rfl, fun _ _ _ => rfl⟩ fun _ _ _ => rfl

/-- NEG (R261): A is 0. -/
theorem neg_agrees : opcodeAgrees .neg :=
  opcodeAgrees_of_forms (fun _ h => by rw [decodeWord, h]; rfl) <|
    formsAgree_of_sourceToB (rest := [opZeroToA, opAluRdWf aluSub]) (body := negate) ⟨rfl, rfl, rfl⟩
      ⟨fun _ _ _ _ => rfl, fun _ _ _ _ => rfl, fun _ _ _ => rfl⟩
      (fun x s => by simp only [actAll_cons, act_opZeroToA, act_opAluRdWf, andThen_next, actAll_nil]; rfl)
      fun _ _ _ _ => rfl

/-- CMP (R253): the result goes nowhere. -/
theorem cmp_agrees : opcodeAgrees .cmp :=
  opcodeAgrees_of_forms (fun _ h => by rw [decodeWord, h]; rfl) <|
    formsAgree_of_sourceToB (rest := [opRdToA, opAluWf aluSub]) (body := compare) ⟨rfl, rfl, rfl⟩
      ⟨fun _ _ _ _ => rfl, fun _ _ _ _ => rfl, fun _ _ _ => rfl⟩
      (fun x s => by simp only [actAll_cons, act_opRdToA, act_opAluWf, andThen_next, actAll_nil]; rfl)
      fun _ _ _ _ => rfl

/-- NOT (R262): the register and short forms bring the source to A and B, the long form leaves its two halves there. -/
theorem not_agrees : opcodeAgrees .notOp := by
  refine opcodeAgrees_of_forms (reg := .notReg) (short := .notShort) (long := .notLong)
    (fun _ h => by rw [decodeWord, h]; rfl) fun s cond hcond =>
      ⟨listingGives_of_opPcInc rfl (exec_notReg ..) hcond ?_, listingGives_of_opPcInc rfl (exec_notShort ..) hcond ?_,
        listingGives_of_withLong rfl (exec_notLong ..) hcond fun imm => ?_⟩
  · simp only [actAll_cons, act_opRsToAB, act_opAluRdWf, andThen_next, actAll_nil, setAB_hid_a, setAB_hid_b,
      setAB_hid_i, aluCompute_nor, BitVec.or_self]
    rfl
  · simp only [actAll_cons, act_opIToA, act_opAluAB, act_opAluRdWf, andThen_next, actAll_nil, aluCompute_s3bf_value,
      setA_hid_a, setA_hid_i, setAB_hid_a, setAB_hid_b, setAB_hid_i, aluCompute_nor, BitVec.or_self]
    rfl
  · simp only [actAll_cons, act_opAluRdWf, andThen_next, actAll_nil, setAB_hid_a, setAB_hid_b, setAB_hid_i,
      aluCompute_nor, highPart_or_lowPart]
    rfl

/-- Settles O53, opcode by opcode: in every form the listing brings the source to B, or the count, and ends with the
ALU operation of the meaning. -/
theorem microcodeOfTwoOperand : Obligations.MicrocodeOfTwoOperand := by
  refine microcodeAgrees_of_opcodes _ ?_
  simp only [List.forall_mem_cons]
  exact ⟨neg_agrees, cmp_agrees, add_agrees, adc_agrees, sub_agrees, sbc_agrees, and_agrees, or_agrees, xor_agrees,
    not_agrees, ror_agrees, rol_agrees, rrc_agrees, rlc_agrees, lsr_agrees, lsl_agrees, asr_agrees,
    fun _ h => absurd h List.not_mem_nil⟩

/-! ## Loads, stores, stack, control flow, OFFS and XCG -/

/-! ### Opcodes with fewer forms -/

/-- An opcode whose forms are a register form, a long form and the reserved rest (R93, R96). -/
theorem opcodeAgrees_of_noShort {o : Opcode} {reg : Cond → Reg → Reg → Instr} {long : Cond → Reg → Instr}
    {reserved : Cond → Reg → BitVec 3 → Instr}
    (hd : ∀ w : Word, opcodeOf w = o → decodeWord w =
      if modeBit w then
        if sourceField w = longMarker o then long (condOf w) (dstReg w)
        else reserved (condOf w) (dstReg w) (sourceField w)
      else reg (condOf w) (dstReg w) (srcReg w))
    (hr : ∀ (cond : Cond) (rd : Reg) (src : BitVec 3), (reserved cond rd src).isReserved = true)
    (hlong : ∀ (cond : Cond) (rd : Reg), (long cond rd).isLong = true)
    (h : ∀ (s : State) (cond : Cond), s.hid.a = readReg .sp s → condHolds cond s.flags = true →
      listingGives o .register s (exec (reg cond (dstReg s.hid.i) (srcReg s.hid.i)) s) ∧
      ((o = .call → s.platform.callImmReturn = .immediateAddress) →
        listingGives o .longImmediate s (exec (long cond (dstReg s.hid.i)) s))) : opcodeAgrees o := by
  intro s ho ha hi hcond hcall
  obtain ⟨hreg, hlongGives⟩ := h s _ ha hcond
  rw [hd _ ho] at hi hcall ⊢
  rw [modeSelect, ho]
  cases hm : modeBit s.hid.i with
  | false => exact hreg
  | true =>
    rw [hm] at hi hcall
    by_cases hsource : sourceField s.hid.i = longMarker o
    · simp only [if_true, if_pos hsource] at hcall ⊢
      exact hlongGives fun hc => hcall hc (hlong ..)
    · simp only [if_true, if_neg hsource, hr, reduceCtorEq] at hi

/-- An opcode with a register form alone, the rest reserved (R93, R96). -/
theorem opcodeAgrees_of_registerOnly {o : Opcode} {form : Word → Instr} {reserved : Cond → Reg → BitVec 3 → Instr}
    (hd : ∀ w : Word, opcodeOf w = o → decodeWord w =
      if modeBit w then reserved (condOf w) (dstReg w) (sourceField w) else form w)
    (hr : ∀ (cond : Cond) (rd : Reg) (src : BitVec 3), (reserved cond rd src).isReserved = true)
    (h : ∀ s : State, s.hid.a = readReg .sp s → condHolds (condOf s.hid.i) s.flags = true →
      listingGives o .register s (exec (form s.hid.i) s)) : opcodeAgrees o := by
  intro s ho ha hi hcond _
  rw [hd _ ho] at hi ⊢
  rw [modeSelect]
  cases hm : modeBit s.hid.i with
  | false => exact h s ha hcond
  | true => simp only [hm, if_true, hr, reduceCtorEq] at hi

/-! ### Stores and pushes -/

@[simp] theorem act_opStoreLo (s : State) :
    act opStoreLo s = andThen (writeByte s.hid.a (lowByte (readReg (srcReg s.hid.i) s)) s) fun t =>
      .next (setA (t.hid.a + 1#16) t) := act_of_store rfl rfl rfl
@[simp] theorem act_opStoreHi (s : State) :
    act opStoreHi s = andThen (writeByte s.hid.a (highByte (readReg (srcReg s.hid.i) s)) s) .next :=
  (act_of_store rfl rfl rfl).trans (by rw [← lowByte_swapBytes]; rfl)

theorem writeByte_setA (a x : Word) (v : Byte) (s : State) :
    writeByte a v (setA x s) = andThen (writeByte a v s) fun t => .next (setA x t) := by
  simp only [writeByte, kindAt_setA]
  cases kindAt s a <;> rfl

/-- The two halves of a word on their way to the stack, from pc or from the source register. -/
def pushHi (x : BusSource) : MicroOp := { source := x, toMem := true, addrA := true, swab := true, aDec := true }
def pushLo (x : BusSource) : MicroOp := { source := x, toMem := true, addrA := true }

theorem act_pushHi (x : BusSource) (v : Word) (s : State) (h : busSource (pushHi x) s = .next v) :
    act (pushHi x) s = andThen (writeByte s.hid.a (highByte v) s) fun t => .next (setA (t.hid.a - 1#16) t) :=
  (act_of_store rfl rfl h).trans (by rw [← lowByte_swapBytes]; rfl)

theorem act_pushLo (x : BusSource) (v : Word) (s : State) (h : busSource (pushLo x) s = .next v) :
    act (pushLo x) s = andThen (writeByte s.hid.a (lowByte v) s) .next := act_of_store rfl rfl h

/-- The push of PUSH and CALL, from the state that state 1 leaves: `pushWord` of what the bus source gives, which the
push itself does not change. -/
theorem actAll_push (x : BusSource) (v : Word) (rest : List MicroOp) (s : State) (ha : s.hid.a = readReg .sp s)
    (hhi : ∀ y z : Word, busSource (pushHi x) (setAB y z s) = .next v)
    (hlo : ∀ (a y z : Word) (b : Byte), busSource (pushLo x) (setAB y z (storeByte a b s)) = .next v) :
    actAll (pushHi x :: pushLo x :: opAluSp aluOr :: rest) (setAB (s.hid.a - 1#16) 0 s) =
      andThen (pushWord v s) (actAll rest) := by
  have hmove : ∀ t : State, setA (readReg .sp s - 1#16 - 1#16) (setAB (readReg .sp s - 1#16) 0 t) =
      setAB (readReg .sp s - 2#16) 0 t := by
    intro t
    rw [show readReg .sp s - 1#16 - 1#16 = readReg .sp s - 2#16 by bv_omega]
    rfl
  have hzero : ∀ y : Word, y ||| 0 = y := fun _ => BitVec.or_zero
  rw [actAll_cons, act_pushHi x v _ (hhi _ _), ha, setAB_hid_a, writeByte_setAB, pushWord]
  cases h1 : writeByte (readReg .sp s - 1#16) (highByte v) s with
  | fault f => rfl
  | refused f => rfl
  | next t =>
    obtain ⟨-, rfl⟩ := (writeByte_eq_next _ _ _ _).1 h1
    simp only [andThen_next, setAB_hid_a, actAll_cons, hmove]
    rw [act_pushLo x v _ (hlo _ _ _ _), setAB_hid_a, writeByte_setAB]
    simp only [andThen_assoc, andThen_next, actAll_cons, act_opAluSp, aluCompute_or_value, setAB_hid_a, setAB_hid_b,
      hzero]
    rfl

/-! ### The opcodes -/

@[simp] theorem aluCompute_add_value (a b : Word) (f : Flags) : (aluCompute (aluPlain .add) a b f).value = a + b := by
  apply BitVec.eq_of_toNat_eq
  show (BitVec.ofNat 16 (a.toNat + b.toNat + 0)).toNat = _
  rw [Nat.add_zero, BitVec.toNat_ofNat, BitVec.toNat_add]

@[simp] theorem aluCompute_xor_value (a b : Word) (f : Flags) :
    (aluCompute (aluPlain .xor) a b f).value = a ^^^ b := rfl

/-- LD (R257). -/
theorem ld_agrees : opcodeAgrees .ld := by
  refine opcodeAgrees_of_forms (reg := .ldReg) (short := .ldShort) (long := .ldLong)
    (fun _ h => by rw [decodeWord, h]; rfl) fun s cond hcond =>
      ⟨listingGives_of_opPcInc rfl (exec_ldReg ..) hcond ?_, listingGives_of_opPcInc rfl (exec_ldShort ..) hcond ?_,
        listingGives_of_withLong rfl (exec_ldLong ..) hcond fun imm => ?_⟩
  · simp only [actAll_cons, act_opRsToAB, act_opAluRd, andThen_next, actAll_nil, setAB_hid_a, setAB_hid_b, setAB_hid_i,
      aluCompute_or_value, BitVec.or_self]
    rfl
  · simp only [actAll_cons, act_opIToA, act_opAluRd, andThen_next, actAll_nil, setA_hid_a, setA_hid_i,
      aluCompute_s3bf_value]
    rfl
  · simp only [actAll_cons, act_opAluRd, andThen_next, actAll_nil, setAB_hid_a, setAB_hid_b, setAB_hid_i,
      aluCompute_or_value, highPart_or_lowPart]
    rfl

/-- The load at the end of both listings of LDI, from the address in A. -/
theorem actAll_loadWord (s : State) :
    actAll [opLoadLoB, opLoadHiA, opAluRd aluOr] s = loadWord (dstReg s.hid.i) s.hid.a s := by
  rw [actAll_opLoadLoB_opLoadHiA, loadWord]
  simp only [actAll_cons, act_opAluRd, andThen_next, actAll_nil, setAB_hid_a, setAB_hid_b, setAB_hid_i,
    aluCompute_or_value, highPart_or_lowPart]
  rfl

theorem loadWord_setA (rd : Reg) (addr x : Word) (s : State) : loadWord rd addr (setA x s) = loadWord rd addr s := rfl

/-- LDI (R258). -/
theorem ldi_agrees : opcodeAgrees .ldi := by
  refine opcodeAgrees_of_noShort (reg := .ldiReg) (long := .ldiLong) (reserved := .ldiReserved)
    (fun _ h => by rw [decodeWord, h]; rfl) (fun _ _ _ => rfl) (fun _ _ => rfl) fun s cond _ hcond =>
      ⟨listingGives_of_opPcInc rfl (exec_ldiReg ..) hcond ?_,
        fun _ => listingGives_of_withLong rfl (exec_ldiLong ..) hcond fun imm => ?_⟩
  · rw [actAll_cons, act_opRsToA, andThen_next, actAll_loadWord, loadWord_setA]
    rfl
  · rw [actAll_cons, act_opAluA, andThen_next, actAll_loadWord, loadWord_setA, setA_hid_a, aluCompute_or_value,
      setAB_hid_a, setAB_hid_b, highPart_or_lowPart]
    rfl

/-- STI (R274): a byte with the mode bit clear, a word with it set, whatever the source field (decision D19). -/
theorem sti_agrees : opcodeAgrees .sti := by
  intro s ho _ _ hcond _
  have hdecode : decodeWord s.hid.i = if modeBit s.hid.i
      then .stiWord (condOf s.hid.i) (dstReg s.hid.i) (srcReg s.hid.i)
      else .stiByte (condOf s.hid.i) (dstReg s.hid.i) (srcReg s.hid.i) := by rw [decodeWord, ho]; rfl
  have hword : actAll [opRdToA, opStoreLo, opStoreHi] s =
      andThen (storeWord (readReg (dstReg s.hid.i) s) (readReg (srcReg s.hid.i) s) s) fun t =>
        .next (setA (readReg (dstReg s.hid.i) s + 1#16) t) := by
    simp only [actAll_cons, act_opRdToA, act_opStoreLo, andThen_next, setA_hid_a, setA_hid_i, readReg_setA,
      writeByte_setA, storeWord, andThen_assoc]
    cases h : writeByte (readReg (dstReg s.hid.i) s) (lowByte (readReg (srcReg s.hid.i) s)) s with
    | fault f => rfl
    | refused f => rfl
    | next t =>
      obtain ⟨-, rfl⟩ := (writeByte_eq_next _ _ _ _).1 h
      simp only [andThen_next, act_opStoreHi, setA_setA, setA_hid_a, setA_hid_i, readReg_setA, readReg_storeByte,
        storeByte_hid_i, writeByte_setA, andThen_assoc]
      rfl
  rw [hdecode, modeSelect]
  cases modeBit s.hid.i with
  | false =>
    refine listingGives_of_opPcInc (rest := [opRdToA, opStoreLo]) rfl (exec_stiByte ..) hcond ?_
    simp only [actAll_cons, act_opRdToA, act_opStoreLo, andThen_next, setA_hid_a, setA_hid_i, readReg_setA,
      writeByte_setA, andThen_assoc]
    rfl
  | true =>
    simp only [if_true]
    split
    · exact listingGives_of_opPcInc rfl (exec_stiWord ..) hcond hword
    · exact listingGives_of_opPcInc rfl (exec_stiWord ..) hcond hword

/-- OFFS (R263): the short form doubles its immediate in the adder. -/
theorem offs_agrees : opcodeAgrees .offs := by
  refine opcodeAgrees_of_forms (reg := .offsReg) (short := .offsShort) (long := .offsLong)
    (fun _ h => by rw [decodeWord, h]; rfl) fun s cond hcond =>
      ⟨listingGives_of_opPcInc rfl (exec_offsReg ..) hcond ?_, listingGives_of_opPcInc rfl (exec_offsShort ..) hcond ?_,
        listingGives_of_withLong rfl (exec_offsLong ..) hcond fun imm => ?_⟩
  · simp only [actAll_cons, act_opRsToA, act_opPcToB, act_opAluRd, andThen_next, actAll_nil, setA_hid_a, setB_hid_a,
      setB_hid_b, setB_hid_i, setA_hid_i, aluCompute_add_value, setA_pc, BitVec.add_comm _ s.pc]
    rfl
  · simp only [actAll_cons, act_opIToA, act_opAluAB, act_opAluA, act_opPcToB, act_opAluRd, andThen_next, actAll_nil,
      setA_hid_a, setAB_hid_a, setAB_hid_b, setB_hid_a, setB_hid_b, setB_hid_i, setA_hid_i, setAB_hid_i,
      aluCompute_s3bf_value, aluCompute_add_value, setA_pc, setAB_pc, BitVec.add_comm _ s.pc]
    rfl
  · simp only [actAll_cons, act_opAluA, act_opPcToB, act_opAluRd, andThen_next, actAll_nil, setA_hid_a, setAB_hid_a,
      setAB_hid_b, setB_hid_a, setB_hid_b, setB_hid_i, setA_hid_i, setAB_hid_i, aluCompute_or_value,
      highPart_or_lowPart, aluCompute_add_value, setA_pc, setAB_pc, setPc_pc, BitVec.add_comm _ (s.pc + 2#16)]
    rfl

/-- XCG (R276): three exclusive-ors swap the registers, and leave a register exchanged with itself as it was. -/
theorem xcg_agrees : opcodeAgrees .xcg := by
  refine opcodeAgrees_of_registerOnly (form := fun w => .xcg (condOf w) (dstReg w) (srcReg w))
    (fun _ h => by rw [decodeWord, h]; rfl) (fun _ _ _ => rfl) fun s _ hcond =>
      listingGives_of_opPcInc rfl (exec_xcg ..) hcond ?_
  have hthird : ∀ t : State, act { source := .alu, alu := aluPlain .xor, select := .rs, toReg := true, toB := true } t =
      .next (setB (t.hid.a ^^^ t.hid.b) (writeReg (srcReg t.hid.i) (t.hid.a ^^^ t.hid.b) t)) :=
    fun t => act_of_bus rfl rfl rfl
  have hfirst : ∀ x y : Word, x ^^^ y ^^^ y = x := fun x y => by rw [BitVec.xor_assoc, BitVec.xor_self, BitVec.xor_zero]
  have hsecond : ∀ x y : Word, x ^^^ y ^^^ x = y := fun x y => by rw [BitVec.xor_comm x, hfirst]
  simp only [actAll_cons, act_opRdToA, act_opRsToB, act_opAluA, hthird, act_opAluRd, andThen_next, actAll_nil,
    setA_hid_a, setA_hid_b, setB_hid_a, setB_hid_b, setA_hid_i, setB_hid_i, writeReg_hid_a, writeReg_hid_i,
    readReg_setA, aluCompute_xor_value, hfirst, hsecond]
  rfl

/-- PUSH (R266). -/
theorem push_agrees : opcodeAgrees .push := by
  refine opcodeAgrees_of_registerOnly (form := fun w => .push (condOf w) (srcReg w))
    (fun _ h => by rw [decodeWord, h]; rfl) (fun _ _ _ => rfl) fun s ha hcond =>
      listingGives_of_opZeroBDecPcInc rfl (exec_push ..) hcond ?_
  refine (actAll_push .reg (readReg (srcReg s.hid.i) s) [] s ha (fun _ _ => rfl) fun _ _ _ _ => rfl).trans ?_
  cases pushWord (readReg (srcReg s.hid.i) s) s <;> rfl

/-- What ends POP and RET is `dropWord`: SP to A again, and SP past the word. -/
theorem actAll_dropWord (s : State) :
    actAll [opSpToA, opOneBIncA, opAluSp (aluPlain .add)] s = .next (dropWord s) := by
  have hsp : readReg .sp s + 1#16 + 1 = readReg .sp s + 2#16 := by bv_omega
  simp only [actAll_cons, act_opSpToA, act_opOneBIncA, act_opAluSp, andThen_next, actAll_nil, setA_hid_a, setAB_hid_a,
    setAB_hid_b, aluCompute_add_value, hsp, dropWord_eq]
  rfl

/-- POP (R265): the popped word is in `rd` before SP is read again. -/
theorem pop_agrees : opcodeAgrees .pop := by
  refine opcodeAgrees_of_registerOnly (form := fun w => .pop (condOf w) (dstReg w))
    (fun _ h => by rw [decodeWord, h]; rfl) (fun _ _ _ => rfl) fun s ha hcond =>
      listingGives_of_opPcInc rfl (exec_pop ..) hcond ?_
  rw [actAll_opLoadLoB_opLoadHiA, ha, topWord]
  congr 1
  funext v
  rw [actAll_cons, act_opAluRd, andThen_next, actAll_dropWord, setAB_hid_a, setAB_hid_b, aluCompute_or_value,
    highPart_or_lowPart]
  rfl

/-- RET (R267). -/
theorem ret_agrees : opcodeAgrees .ret := by
  refine opcodeAgrees_of_registerOnly (form := fun w => .ret (condOf w))
    (fun _ h => by rw [decodeWord, h]; rfl) (fun _ _ _ => rfl) fun s ha hcond =>
      listingGives_of_opPcInc rfl (exec_ret ..) hcond ?_
  rw [actAll_opLoadLoB_opLoadHiA, ha, returnFrom, topWord]
  congr 1
  funext v
  rw [actAll_cons, act_opAluPc, andThen_next, actAll_dropWord, setAB_hid_a, setAB_hid_b, aluCompute_or_value,
    highPart_or_lowPart]
  rfl

/-- J (R256). -/
theorem j_agrees : opcodeAgrees .j := by
  refine opcodeAgrees_of_noShort (reg := fun cond _ rs => .jReg cond rs) (long := fun cond _ => .jLong cond)
    (reserved := .jReserved)
    (fun _ h => by rw [decodeWord, h]; rfl) (fun _ _ _ => rfl) (fun _ _ => rfl) fun s cond _ hcond =>
      ⟨listingGives_of_opPcInc rfl (exec_jReg ..) hcond ?_,
        fun _ => listingGives_of_opPcInc rfl (exec_jLong ..) hcond ?_⟩
  · rw [actAll_cons, act_opRsToPc]
    rfl
  · rw [actAll_opImmLoA_opImmHiB, withLong]
    simp only [actAll_cons, act_opAluPc, andThen_next, actAll_nil, setAB_hid_a, setAB_hid_b, aluCompute_or_value,
      lowPart_or_highPart]
    rfl

/-- CALL (R250): the long listing pushes the address of its immediate (C3). -/
theorem call_agrees : opcodeAgrees .call := by
  refine opcodeAgrees_of_noShort (reg := fun cond _ rs => .callReg cond rs) (long := fun cond _ => .callLong cond)
    (reserved := .callReserved)
    (fun _ h => by rw [decodeWord, h]; rfl) (fun _ _ _ => rfl) (fun _ _ => rfl) fun s cond ha hcond =>
      ⟨listingGives_of_opZeroBDecPcInc rfl (exec_callReg ..) hcond ?_,
        fun hcall => listingGives_of_opZeroBDecPcInc rfl (exec_callLong ..) hcond ?_⟩
  · refine (actAll_push .pc s.pc [opRsToPc] s ha (fun _ _ => rfl) fun _ _ _ _ => rfl).trans ?_
    cases h : pushWord s.pc s with
    | fault f => rfl
    | refused f => rfl
    | next t =>
      obtain ⟨-, -, rfl⟩ := (pushWord_eq_next _ _ _).1 h
      rw [andThen_next, actAll_cons, act_opRsToPc]
      rfl
  · refine (actAll_push .pc s.pc [opImmLoA, opImmHiB, opAluPc aluOr] s ha (fun _ _ => rfl) fun _ _ _ _ => rfl).trans ?_
    have hreturn : longReturnAddress s = s.pc := by rw [longReturnAddress, hcall rfl]
    rw [hreturn]
    congr 1
    funext t
    rw [actAll_opImmLoA_opImmHiB]
    simp only [actAll_cons, act_opAluPc, andThen_next, actAll_nil, setAB_hid_a, setAB_hid_b, aluCompute_or_value,
      lowPart_or_highPart]
    rfl

/-- Settles O54, opcode by opcode: the memory accesses of a listing are those of the meaning, in the same order. -/
theorem microcodeOfMemoryAndControl : Obligations.MicrocodeOfMemoryAndControl := by
  refine microcodeAgrees_of_opcodes _ ?_
  simp only [List.forall_mem_cons]
  exact ⟨ld_agrees, ldi_agrees, sti_agrees, offs_agrees, push_agrees, pop_agrees, j_agrees, call_agrees, ret_agrees,
    xcg_agrees, fun _ h => absurd h List.not_mem_nil⟩

/-! ## The counts, SEX and FLG -/

/-! ### Counting zeros through flood-down (R242, R252, R254) -/

/-- How many bits the value of a word takes, 0 for 0. -/
def bitLength (d : Word) : Nat := if d = 0 then 0 else Nat.log2 d.toNat + 1

theorem toNat_ne_zero {d : Word} (h : d ≠ 0) : d.toNat ≠ 0 := fun hn => h (BitVec.eq_of_toNat_eq hn)

theorem bitLength_le (d : Word) : bitLength d ≤ 16 := by
  unfold bitLength
  split
  · omega
  · exact (Nat.log2_lt (toNat_ne_zero ‹_›)).2 d.isLt

theorem lt_bitLength_of_getLsbD (d : Word) (j : Nat) (h : d.getLsbD j = true) : j < bitLength d := by
  have hd : d ≠ 0 := by
    rintro rfl
    rw [BitVec.ofNat_eq_ofNat, BitVec.getLsbD_zero] at h
    cases h
  have hpow : 2 ^ j ≤ d.toNat := Nat.ge_two_pow_of_testBit h
  rw [bitLength, if_neg hd]
  exact Nat.lt_succ_of_le ((Nat.le_log2 (toNat_ne_zero hd)).2 hpow)

theorem getLsbD_of_bitLength_eq (d : Word) (j : Nat) (h : bitLength d = j + 1) : d.getLsbD j = true := by
  unfold bitLength at h
  split at h
  · omega
  · obtain rfl : Nat.log2 d.toNat = j := by omega
    exact Nat.testBit_log2 (toNat_ne_zero ‹_›)

theorem getLsbD_floodDown (d : Word) (i : Nat) (hi : i < 16) :
    (floodDown d).getLsbD i = decide (i < bitLength d) := by
  have hflood : floodDown d = BitVec.ofNat 16 (2 ^ bitLength d - 1) := by
    unfold floodDown bitLength
    split <;> rfl
  rw [hflood, BitVec.getLsbD_ofNat, Nat.testBit_two_pow_sub_one, decide_eq_true hi, Bool.true_and]

/-- The zeros from bit `k - 1` down are the bits above the value. -/
theorem zerosBelow_eq (d : Word) (k : Nat) (h : bitLength d ≤ k) : zerosBelow d k = k - bitLength d := by
  induction k with
  | zero => rw [zerosBelow, Nat.zero_sub]
  | succ j ih =>
    rw [zerosBelow]
    split
    case isTrue hbit =>
      have hlt := lt_bitLength_of_getLsbD d j hbit
      omega
    case isFalse hbit =>
      have hne : bitLength d ≠ j + 1 := fun he => hbit (getLsbD_of_bitLength_eq d j he)
      rw [ih (by omega)]
      omega

theorem onesBelow_not_floodDown (d : Word) (k : Nat) (h : k ≤ 16) :
    onesBelow (~~~(floodDown d)) k = k - bitLength d := by
  induction k with
  | zero => rw [onesBelow, Nat.zero_sub]
  | succ j ih =>
    have hbit : (~~~(floodDown d)).getLsbD j = !decide (j < bitLength d) := by
      rw [BitVec.getLsbD_not, getLsbD_floodDown d j (by omega), decide_eq_true (by omega : j < 16), Bool.true_and]
    rw [onesBelow, ih (by omega), hbit]
    by_cases hj : j < bitLength d
    · rw [decide_eq_true hj, Bool.not_true, Bool.toNat_false]
      omega
    · rw [decide_eq_false hj, Bool.not_false, Bool.toNat_true]
      omega

/-- The 1 bits of the complemented flood-down are the leading zeros. -/
theorem onesCount_not_floodDown (d : Word) : onesCount (~~~(floodDown d)) = leadingZeros d := by
  rw [onesCount, leadingZeros, onesBelow_not_floodDown d 16 le_rfl, zerosBelow_eq d 16 (bitLength_le d)]

theorem zerosBelow_reverseBits (d : Word) (k : Nat) (h : k ≤ 16) : zerosBelow (reverseBits d) k = zerosAbove d k := by
  induction k with
  | zero => rfl
  | succ j ih =>
    have hbit : (reverseBits d).getLsbD j = d.getLsbD (15 - j) := by
      rw [reverseBits, BitVec.getLsbD_reverse, BitVec.getMsbD_eq_getLsbD, decide_eq_true (by omega : j < 16),
        Bool.true_and, show 16 - 1 - j = 15 - j by omega]
    rw [zerosBelow, zerosAbove, hbit, ih (by omega)]

theorem leadingZeros_reverseBits (d : Word) : leadingZeros (reverseBits d) = trailingZeros d :=
  zerosBelow_reverseBits d 16 le_rfl

/-! ### The counts -/

@[simp] theorem aluCompute_notFd_value (a b : Word) (f : Flags) :
    (aluCompute aluNotFd a b f).value = ~~~(floodDown a) := rfl
@[simp] theorem aluCompute_rev_value (a b : Word) (f : Flags) :
    (aluCompute (aluPlain .rev) a b f).value = reverseBits a := rfl
theorem aluCompute_cbs (a b : Word) (f : Flags) : aluCompute (aluPlain .cbs) a b f = countOut (onesCount a) f := rfl

/-- The last micro-operation of the counts: the 1 bits of A, counted. -/
theorem actAll_cbs (x : Word) (s : State) :
    actAll [opAluRdWf (aluPlain .cbs)] (setA x s) = putCount (onesCount x) x (dstReg s.hid.i) s := by
  simp only [actAll_cons, act_opAluRdWf, andThen_next, actAll_nil, setA_hid_a, setA_hid_i, aluCompute_cbs, putCount]
  rfl

/-- CBS (R251). -/
theorem cbs_agrees : opcodeAgrees .cbs :=
  opcodeAgrees_of_forms (fun _ h => by rw [decodeWord, h]; rfl) <|
    formsAgree_of_sourceToA (body := countOnes) ⟨rfl, rfl, rfl⟩
      ⟨fun _ _ _ _ => rfl, fun _ _ _ _ => rfl, fun _ _ _ => rfl⟩ actAll_cbs fun _ _ _ _ => rfl

/-- CLZ (R252): the 1 bits above the flood-down. -/
theorem clz_agrees : opcodeAgrees .clz :=
  opcodeAgrees_of_forms (fun _ h => by rw [decodeWord, h]; rfl) <|
    formsAgree_of_sourceToA (body := countLeading) ⟨rfl, rfl, rfl⟩
      ⟨fun _ _ _ _ => rfl, fun _ _ _ _ => rfl, fun _ _ _ => rfl⟩
      (fun x s => by
        rw [actAll_cons, act_opAluA, andThen_next, actAll_cbs, setA_hid_a, aluCompute_notFd_value,
          onesCount_not_floodDown]
        rfl)
      fun _ _ _ _ => rfl

/-- CTZ (R254): the leading zeros of the reversed word. -/
theorem ctz_agrees : opcodeAgrees .ctz :=
  opcodeAgrees_of_forms (fun _ h => by rw [decodeWord, h]; rfl) <|
    formsAgree_of_sourceToA (body := countTrailing) ⟨rfl, rfl, rfl⟩
      ⟨fun _ _ _ _ => rfl, fun _ _ _ _ => rfl, fun _ _ _ => rfl⟩
      (fun x s => by
        rw [actAll_cons, act_opAluA, andThen_next, actAll_cons, act_opAluA, andThen_next, actAll_cbs, setA_hid_a,
          setA_hid_a, aluCompute_rev_value, aluCompute_notFd_value, onesCount_not_floodDown, leadingZeros_reverseBits]
        rfl)
      fun _ _ _ _ => rfl

/-! ### SEX (R273) -/

@[simp] theorem aluCompute_lsl_value (a b : Word) (f : Flags) :
    (aluCompute (aluPlain .lsl) a b f).value = a <<< b.toNat := rfl
theorem aluCompute_asr (a b : Word) (f : Flags) : aluCompute (aluPlain .asr) a b f = asrAlu a b f := rfl

/-- Left by 8 and back by 8 is the low byte sign-extended. -/
theorem sshiftRight_shiftLeft_eight (x : Word) : (x <<< 8).sshiftRight 8 = (lowByte x).signExtend 16 := by
  have hlow : ∀ j : Nat, j < 8 → (lowByte x).getLsbD j = x.getLsbD j := by
    intro j hj
    rw [lowByte, BitVec.getLsbD_extractLsb', decide_eq_true hj, Bool.true_and, Nat.zero_add]
  have hshift : ∀ j : Nat, j < 8 → (x <<< 8).getLsbD (8 + j) = x.getLsbD j := by
    intro j hj
    rw [BitVec.getLsbD_shiftLeft, decide_eq_true (by omega : 8 + j < 16), decide_eq_false (by omega : ¬8 + j < 8),
      Nat.add_sub_cancel_left, Bool.not_false, Bool.true_and, Bool.true_and]
  apply BitVec.eq_of_getLsbD_eq
  intro i hi
  rw [BitVec.getLsbD_sshiftRight, BitVec.getLsbD_signExtend, decide_eq_false (by omega : ¬16 ≤ i), decide_eq_true hi]
  by_cases h8 : i < 8
  · rw [if_pos (by omega), if_pos h8, hshift i h8, hlow i h8, Bool.not_false]
  · have hmsb : (x <<< 8).msb = (lowByte x).msb :=
      (BitVec.msb_eq_getLsbD_last _).trans <| (hshift 7 (by omega)).trans <|
        (hlow 7 (by omega)).symm.trans (BitVec.msb_eq_getLsbD_last _).symm
    rw [if_neg (by omega), if_neg h8, hmsb, Bool.not_false]

theorem asrAlu_shiftLeft_eight (x : Word) (f : Flags) : asrAlu (x <<< 8) 8 f = sexAlu x f := by
  have hout : outRight (x <<< 8) 8 = 0 := by
    rw [outRight, BitVec.toNat_shiftLeft, Nat.shiftLeft_eq, show min 8 16 = 8 from rfl]
    omega
  show clearingV ((x <<< 8).sshiftRight 8) (decide (outRight (x <<< 8) 8 ≠ 0)) = _
  rw [sshiftRight_shiftLeft_eight, hout]
  rfl

theorem asrAlu_zero_shortSigned (imm : BitVec 3) (f : Flags) :
    asrAlu (shortSigned imm) 0 f = sexAlu (shortSigned imm) f := by
  have hvalue : (shortSigned imm).sshiftRight 0 = (lowByte (shortSigned imm)).signExtend 16 := by
    revert imm; decide
  have hout : outRight (shortSigned imm) 0 = 0 := Nat.mod_one _
  show clearingV ((shortSigned imm).sshiftRight 0) (decide (outRight (shortSigned imm) 0 ≠ 0)) = _
  rw [hvalue, hout]
  rfl

/-- The register and long listings of SEX shift the constant 8 out of 1. -/
theorem actAll_makeEight (rest : List MicroOp) (s : State) :
    actAll (opAluAB (aluPlain .lsl) :: opAluB (aluPlain .lsl) :: rest) (setAB 1 1 s) = actAll rest (setAB 2 8 s) := by
  have htwo : (1 : Word) <<< (1 : Word).toNat = 2 := rfl
  have height : (2 : Word) <<< (2 : Word).toNat = 8 := rfl
  simp only [actAll_cons, act_opAluAB, act_opAluB, andThen_next, aluCompute_lsl_value, setAB_hid_a, setAB_hid_b, htwo,
    height]
  rfl

/-- The end of the listings: `y` in A, shifted back by the count in B. -/
theorem actAll_signExtendByte (x y count : Word) (s : State)
    (h : ∀ f : Flags, asrAlu y count f = sexAlu x f) :
    actAll [opAluRdWf (aluPlain .asr)] (setAB y count s) =
      .next (setAB y count (signExtendByte (dstReg s.hid.i) x s)) := by
  simp only [actAll_cons, act_opAluRdWf, andThen_next, actAll_nil, setAB_hid_a, setAB_hid_b, setAB_hid_i, setAB_flags,
    aluCompute_asr, h]
  rfl

theorem setWidth_shiftLeft_eight (lo : Byte) : lo.setWidth 16 <<< 8 = lo ++ (0 : Byte) := by
  apply BitVec.eq_of_toNat_eq
  rw [BitVec.toNat_shiftLeft, BitVec.toNat_append, BitVec.toNat_setWidth,
    Nat.mod_eq_of_lt (by omega : lo.toNat < 2 ^ 16),
    Nat.mod_eq_of_lt (by rw [Nat.shiftLeft_eq]; omega : lo.toNat <<< 8 < 2 ^ 16)]
  exact (Nat.or_zero _).symm

theorem sex_agrees : opcodeAgrees .sex := by
  have height : (8 : Word).toNat = 8 := rfl
  refine opcodeAgrees_of_forms (reg := .sexReg) (short := .sexShort) (long := .sexLong)
    (fun _ h => by rw [decodeWord, h]; rfl) fun s cond hcond =>
      ⟨listingGives_of_opOnePcInc rfl (exec_sexReg ..) hcond ?_,
        listingGives_of_opOnePcInc rfl (exec_sexShort ..) hcond ?_,
        listingGives_of_opOnePcInc rfl (exec_sexLong ..) hcond ?_⟩
  · rw [actAll_makeEight, actAll_cons, act_opRsToA, andThen_next, actAll_cons, act_opAluA, andThen_next,
      aluCompute_lsl_value, setA_hid_a, setA_hid_b, setAB_hid_b, height, readReg_setAB, setAB_hid_i]
    exact actAll_signExtendByte _ _ 8 s (asrAlu_shiftLeft_eight _)
  · rw [actAll_cons, act_opIToA, andThen_next, actAll_cons, act_opAluA, andThen_next, aluCompute_s3bf_value, setA_hid_a,
      actAll_cons, act_opZeroToB, andThen_next]
    exact actAll_signExtendByte _ _ 0 s (asrAlu_zero_shortSigned _)
  · have hfifth : ∀ t : State, act { source := .alu, alu := aluPlain .lsl, toA := true, pcInc := true } t =
        .next (setA (t.hid.a <<< t.hid.b.toNat) (setPc (t.pc + 1#16) t)) := fun t => act_of_bus rfl rfl rfl
    have hpc : s.pc + 1#16 + 1#16 = s.pc + 2#16 := by bv_omega
    rw [actAll_makeEight, actAll_cons, act_opImmLoA, andThen_assoc, withLongLowByte]
    congr 1
    funext lo
    rw [andThen_next, actAll_cons, hfifth, andThen_next, setA_pc, setPc_pc, setAB_pc, hpc, setA_hid_a,
      setA_hid_b, setPc_hid_b, setAB_hid_b, height, ← setWidth_shiftLeft_eight]
    exact actAll_signExtendByte _ _ 8 (setPc (s.pc + 2#16) s) (asrAlu_shiftLeft_eight (lo.setWidth 16))

/-! ### FLG (R255) -/

/-- The end of both listings of FLG, with the old flags in A and the source in B. -/
theorem actAll_transferFlags (x : Word) (s : State) :
    actAll [opAluA (aluPlain .rev), opAluRd (aluPlain .rev), opAluWf selS3bf] (setAB s.flags.toWord x s) =
      .next (transferFlags (dstReg s.hid.i) x s) := by
  have htwice : ∀ w : Word, reverseBits (reverseBits w) = w := fun _ => BitVec.reverse_reverse_eq
  simp only [actAll_cons, act_opAluA, act_opAluRd, act_opAluWf, andThen_next, actAll_nil, aluCompute_rev_value,
    setAB_hid_a, setA_hid_a, setA_hid_i, setAB_hid_i, htwice]
  rfl

/-- FLG (R255). -/
theorem flg_agrees : opcodeAgrees .flg := by
  refine opcodeAgrees_of_noShort (reg := .flgReg) (long := .flgLong) (reserved := .flgReserved)
    (fun _ h => by rw [decodeWord, h]; rfl) (fun _ _ _ => rfl) (fun _ _ => rfl) fun s cond _ hcond =>
      ⟨listingGives_of_opPcInc rfl (exec_flgReg ..) hcond ?_,
        fun _ => listingGives_of_opPcInc rfl (exec_flgLong ..) hcond ?_⟩
  · rw [actAll_cons, act_opRsToB, andThen_next, actAll_cons, act_opFlagsToA, andThen_next]
    exact actAll_transferFlags _ s
  · have hfourth : ∀ t : State, act { source := .flags, toA := true, pcInc := true } t =
        .next (setA t.flags.toWord (setPc (t.pc + 1#16) t)) := fun t => act_of_bus rfl rfl rfl
    have hpc : s.pc + 1#16 + 1#16 = s.pc + 2#16 := by bv_omega
    rw [actAll_cons, act_opImmLoB, andThen_assoc, withLongLowByte]
    congr 1
    funext lo
    rw [andThen_next, actAll_cons, hfourth, andThen_next, setB_pc, setPc_pc, hpc]
    exact actAll_transferFlags (lo.setWidth 16) (setPc (s.pc + 2#16) s)

/-- Settles O55, opcode by opcode: the counts through the 1 bits of a complemented flood-down, SEX through two shifts,
FLG through two reversals. -/
theorem microcodeOfBits : Obligations.MicrocodeOfBits := by
  refine microcodeAgrees_of_opcodes _ ?_
  simp only [List.forall_mem_cons]
  exact ⟨clz_agrees, ctz_agrees, cbs_agrees, sex_agrees, flg_agrees, fun _ h => absurd h List.not_mem_nil⟩

end Sys2Proof.Microcode
end

section
/-! What every instruction and every step keeps (O40, O42, O43, O45), what a program can see of a step (O49), and the
state after reset (O44).

One case split over the instructions, `exec_lawful`, says of each whose condition holds what its meaning may do
(`Lawful`): how it changes the state (`Effect`) and that it looks at no hidden register (`Blind`). It is built from one
lemma for each shape of a meaning: a next state, a read, a long immediate, a store. -/

namespace Sys2Proof.StepLaws

open Sys2Proof Sys2Proof.Machine

/-! ## What a program can see -/

/-- The same machine to a program, with other hidden registers and another counter of free values. -/
def rehide (hid : Hidden) (n : Nat) (s : State) : State := { s with hid := hid, freeCtr := n }

theorem eq_rehide_of_visible_eq {s s' : State} (h : visible s = visible s') : s' = rehide s'.hid s'.freeCtr s := by
  obtain ⟨_, _, _, _, _, _, _, _⟩ := s
  obtain ⟨_, _, _, _, _, _, _, _⟩ := s'
  cases h
  rfl

/-- A value that depends on what a program can see only. -/
def Seen {α : Type} (a : State → α) : Prop := ∀ (hid : Hidden) (n : Nat) (s : State), a (rehide hid n s) = a s

theorem Seen.eq {α : Type} {a : State → α} (ha : Seen a) {s s' : State} (h : visible s = visible s') :
    a s = a s' := by
  rw [eq_rehide_of_visible_eq h, ha]

theorem seen_const {α : Type} (x : α) : Seen fun _ => x := fun _ _ _ => rfl
theorem seen_kindAt (a : Word) : Seen fun s => kindAt s a := fun _ _ _ => rfl
theorem seen_readByte (a : Word) : Seen (readByte a) := fun _ _ _ => rfl

/-- Whose outcome a program cannot tell apart in two states it cannot tell apart. -/
def Blind (body : State → Result State) : Prop :=
  ∀ s s' : State, visible s = visible s' → sameOutcome (body s) (body s')

theorem sameOutcome_andThen {r r' : Result State} {k k' : State → Result State} (hr : sameOutcome r r')
    (hk : ∀ t t' : State, visible t = visible t' → sameOutcome (k t) (k' t')) :
    sameOutcome (andThen r k) (andThen r' k') := by
  cases r with
  | next t =>
    cases r' with
    | next t' => exact hk t t' hr
    | fault _ => exact hr.elim
    | refused _ => exact hr.elim
  | fault e =>
    cases r' with
    | next _ => exact hr.elim
    | fault _ => exact hr
    | refused _ => exact hr.elim
  | refused e =>
    cases r' with
    | next _ => exact hr.elim
    | fault _ => exact hr.elim
    | refused _ => exact hr

theorem Blind.next {f : State → State} (hf : Seen fun s => visible (f s)) : Blind fun s => .next (f s) :=
  fun _ _ h => hf.eq h

theorem Blind.andThen {w k : State → Result State} (hw : Blind w) (hk : Blind k) : Blind fun s => andThen (w s) k :=
  fun _ _ h => sameOutcome_andThen (hw _ _ h) hk

/-- Going on with a value that is read, not with a state: a stop of the read is the same stop. -/
theorem Blind.read {α : Type} {r : State → Result α} {k : α → State → Result State} (hr : Seen r)
    (hk : ∀ x : α, Blind (k x)) : Blind fun s => Machine.andThen (r s) fun x => k x s := by
  intro s s' h
  dsimp only
  rw [← hr.eq h]
  cases r s with
  | next x => exact hk x s s' h
  | fault e => exact rfl
  | refused e => exact rfl

theorem blind_writeByte {a : State → Word} {v : State → Byte} (ha : Seen a) (hv : Seen v) :
    Blind fun s => writeByte (a s) (v s) s := by
  intro s s' h
  dsimp only [writeByte]
  rw [← ha.eq h, ← hv.eq h, ← (seen_kindAt (a s)).eq h]
  cases kindAt s (a s) with
  | ram => exact Seen.eq (a := fun u => visible (storeByte (a s) (v s) u)) (fun _ _ _ => rfl) h
  | rom => exact rfl
  | absent => exact rfl

theorem blind_storeWord {a v : State → Word} (ha : Seen a) (hv : Seen v) :
    Blind fun s => storeWord (a s) (v s) s := by
  intro s s' h
  dsimp only
  rw [← ha.eq h, ← hv.eq h]
  exact Blind.andThen (blind_writeByte (seen_const _) (seen_const _))
    (blind_writeByte (seen_const _) (seen_const _)) s s' h

theorem blind_pushWord {v : State → Word} (hv : Seen v) : Blind fun s => pushWord (v s) s := by
  intro s s' h
  have hsp : readReg .sp s = readReg .sp s' := Seen.eq (fun _ _ _ => rfl) h
  dsimp only [pushWord]
  rw [← hv.eq h, ← hsp]
  have hlast : Blind fun t => .next (setAB (readReg .sp s - 2#16) 0#16 (writeReg .sp (readReg .sp s - 2#16) t)) :=
    .next fun _ _ _ => rfl
  exact Blind.andThen (blind_writeByte (seen_const _) (seen_const _))
    (.andThen (blind_writeByte (seen_const _) (seen_const _)) hlast) s s' h

/-! ## What an instruction does -/

/-- What no instruction changes, and the canonical form of memory, which every one keeps. -/
structure Keeps (s t : State) : Prop where
  pending : t.pending = s.pending
  platform : t.platform = s.platform
  latched : t.hid.i = s.hid.i
  counter : t.hid.counter = s.hid.counter
  mode : t.hid.mode = s.hid.mode
  wf : s.mem.wf = true → t.mem.wf = true

theorem Keeps.trans {s t u : State} (h : Keeps s t) (h' : Keeps t u) : Keeps s u :=
  ⟨h'.pending.trans h.pending, h'.platform.trans h.platform, h'.latched.trans h.latched,
    h'.counter.trans h.counter, h'.mode.trans h.mode, fun hs => h'.wf (h.wf hs)⟩

/-- Registers, pc, flags, A and B are free to change. -/
theorem keeps_update (s : State) (regs : RegFile) (pc : Word) (flags : Flags) (a b : Word) :
    Keeps s { s with regs := regs, pc := pc, flags := flags, hid := { s.hid with a := a, b := b } } :=
  ⟨rfl, rfl, rfl, rfl, rfl, id⟩

theorem keeps_storeByte (a : Word) (v : Byte) (s : State) : Keeps s (storeByte a v s) :=
  ⟨rfl, rfl, rfl, rfl, rfl, storeByte_wf a v s⟩

theorem keeps_passOver (f : Form) (s : State) : Keeps s (passOver f s) := by
  obtain ⟨-, -, hpending, hmem, hplatform, hi, hcounter, hmode, -⟩ := passOver_frame f s
  exact ⟨hpending, hplatform, hi, hcounter, hmode, fun h => hmem ▸ h⟩

/-- The table of R31: the flags after an instruction that completes, of those before. -/
def flagsRule (o : Opcode) (f g : Flags) : Prop :=
  match o with
  | .ld | .ldi | .sti | .offs | .push | .pop | .j | .call | .ret | .xcg => g = f
  | .sex | .ror | .rol => g.c = false ∧ g.v = false
  | .clz | .ctz | .cbs => g.c = f.c ∧ g.n = false ∧ g.v = f.v
  | .andOp | .orOp | .xor | .notOp => g.c = f.c ∧ g.v = f.v
  | .rrc | .rlc | .lsr | .lsl | .asr => g.v = false
  | .neg | .cmp | .add | .adc | .sub | .sbc | .flg => True

/-- Where pc stands after an instruction of a form that is no control transfer (R27), of the state its fetch leaves. -/
def pcAfter (f : Form) (s : State) : Word :=
  match f with
  | .twoByte => s.pc
  | .long => s.pc + 2#16

/-- What an instruction that completes does to the state. -/
structure Effect (o : Opcode) (f : Form) (s t : State) : Prop where
  keeps : Keeps s t
  flags : flagsRule o s.flags t.flags
  pc : o ∉ [.j, .call, .ret] → t.pc = pcAfter f s

/-- An instruction that writes registers, flags and the hidden A and B, and nothing else. -/
theorem Effect.of_registers {o : Opcode} {s t : State}
    (h : t = { s with regs := t.regs, flags := t.flags, hid := { s.hid with a := t.hid.a, b := t.hid.b } })
    (hf : flagsRule o s.flags t.flags) : Effect o .twoByte s t := by
  have hk : Keeps s t := by rw [h]; exact keeps_update ..
  exact ⟨hk, hf, fun _ => by rw [h]; rfl⟩

/-- A control transfer writes registers, pc and the hidden A and B, and nothing else. -/
theorem Effect.of_transfer {o : Opcode} {f : Form} {s t : State}
    (h : t = { s with regs := t.regs, pc := t.pc, hid := { s.hid with a := t.hid.a, b := t.hid.b } })
    (ho : o ∈ [.j, .call, .ret]) : Effect o f s t := by
  have hk : Keeps s t := by rw [h]; exact keeps_update ..
  have hflags : t.flags = s.flags := by rw [h]
  refine ⟨hk, ?_, fun hn => absurd ho hn⟩
  simp only [List.mem_cons, List.not_mem_nil, or_false] at ho
  rcases ho with rfl | rfl | rfl <;> exact hflags

/-- What a store or a push does to the state. -/
structure Stored (s t : State) : Prop where
  keeps : Keeps s t
  flags : t.flags = s.flags
  pc : t.pc = s.pc

theorem Stored.trans {s t u : State} (h : Stored s t) (h' : Stored t u) : Stored s u :=
  ⟨h.keeps.trans h'.keeps, h'.flags.trans h.flags, h'.pc.trans h.pc⟩

/-- The microcode of a store moves the hidden A and B, and a push moves SP. -/
theorem stored_update (s : State) (regs : RegFile) (a b : Word) :
    Stored s { s with regs := regs, hid := { s.hid with a := a, b := b } } := ⟨keeps_update .., rfl, rfl⟩

theorem stored_storeByte (a : Word) (v : Byte) (s : State) : Stored s (storeByte a v s) :=
  ⟨keeps_storeByte a v s, rfl, rfl⟩

theorem stored_of_writeByte {a : Word} {v : Byte} {s t : State} (h : writeByte a v s = .next t) : Stored s t := by
  obtain ⟨-, rfl⟩ := (writeByte_eq_next a v s t).1 h
  exact stored_storeByte a v s

theorem stored_of_storeWord {a v : Word} {s t : State} (h : storeWord a v s = .next t) : Stored s t := by
  obtain ⟨-, -, rfl⟩ := (storeWord_eq_next a v s t).1 h
  exact (stored_storeByte _ _ s).trans (stored_storeByte _ _ _)

theorem stored_of_pushWord {v : Word} {s t : State} (h : pushWord v s = .next t) : Stored s t := by
  obtain ⟨-, -, rfl⟩ := (pushWord_eq_next v s t).1 h
  exact ((stored_storeByte _ _ s).trans (stored_storeByte _ _ _)).trans (stored_update ..)

/-! ## The shapes of a meaning -/

/-- What the meaning of an instruction may do when its condition holds. -/
structure Lawful (o : Opcode) (f : Form) (body : State → Result State) : Prop where
  effect : ∀ s t : State, body s = .next t → Effect o f s t
  blind : Blind body

/-- A part of a meaning that stores into memory. -/
structure Stores (w : State → Result State) : Prop where
  stored : ∀ s t : State, w s = .next t → Stored s t
  blind : Blind w

theorem stores_writeByte {a : State → Word} {v : State → Byte} (ha : Seen a) (hv : Seen v) :
    Stores fun s => writeByte (a s) (v s) s := ⟨fun _ _ => stored_of_writeByte, blind_writeByte ha hv⟩

theorem stores_storeWord {a v : State → Word} (ha : Seen a) (hv : Seen v) :
    Stores fun s => storeWord (a s) (v s) s := ⟨fun _ _ => stored_of_storeWord, blind_storeWord ha hv⟩

theorem stores_pushWord {v : State → Word} (hv : Seen v) : Stores fun s => pushWord (v s) s :=
  ⟨fun _ _ => stored_of_pushWord, blind_pushWord hv⟩

/-- The microcode of STI leaves an address in A. -/
theorem Stores.setA {w : State → Result State} (hw : Stores w) (x : State → Word) :
    Stores fun s => andThen (w s) fun t => .next (setA (x s) t) := by
  refine ⟨fun s u h => ?_, fun s s' h => sameOutcome_andThen (hw.blind s s' h) fun _ _ ht => ht⟩
  obtain ⟨t, ht, hu⟩ := (andThen_eq_next _ _ _).1 h
  cases hu
  exact (hw.stored s t ht).trans (stored_update ..)

section
variable {o : Opcode} {f : Form}

theorem Lawful.of_stores {w : State → Result State} (hw : Stores w) (ho : ∀ g : Flags, flagsRule o g g) :
    Lawful o .twoByte w := by
  refine ⟨fun s t h => ?_, hw.blind⟩
  obtain ⟨hkeeps, hflags, hpc⟩ := hw.stored s t h
  exact ⟨hkeeps, hflags ▸ ho s.flags, fun _ => hpc⟩

theorem Lawful.after_stores {w k : State → Result State} (hw : Stores w) (hk : Lawful o f k) :
    Lawful o f fun s => andThen (w s) k := by
  refine ⟨fun s u h => ?_, hw.blind.andThen hk.blind⟩
  obtain ⟨t, ht, hu⟩ := (andThen_eq_next _ _ _).1 h
  obtain ⟨hkeeps, hflags, hpc⟩ := hw.stored s t ht
  have he := hk.effect t u hu
  have hsame : pcAfter f t = pcAfter f s := by cases f <;> simp only [pcAfter, hpc]
  exact ⟨hkeeps.trans he.keeps, hflags ▸ he.flags, fun ho => (he.pc ho).trans hsame⟩

theorem Lawful.next {g : State → State} (he : ∀ s : State, Effect o f s (g s)) (hg : Seen fun s => visible (g s)) :
    Lawful o f fun s => .next (g s) :=
  ⟨fun s _ h => Host.Outcome.next.inj h ▸ he s, .next hg⟩

/-- A meaning that computes registers and flags from what a program can see. -/
theorem Lawful.registers {g : State → State}
    (hg : ∀ s : State, g s =
      { s with regs := (g s).regs, flags := (g s).flags, hid := { s.hid with a := (g s).hid.a, b := (g s).hid.b } })
    (hflags : ∀ s : State, flagsRule o s.flags (g s).flags) (hseen : Seen fun s => visible (g s)) :
    Lawful o .twoByte fun s => .next (g s) :=
  .next (fun s => .of_registers (hg s) (hflags s)) hseen

theorem Lawful.read {α : Type} {r : State → Result α} {k : α → State → Result State} (hr : Seen r)
    (hk : ∀ x : α, Lawful o f (k x)) : Lawful o f fun s => andThen (r s) fun x => k x s := by
  refine ⟨fun s t h => ?_, .read hr fun x => (hk x).blind⟩
  obtain ⟨x, -, ht⟩ := (andThen_eq_next _ _ _).1 h
  exact (hk x).effect s t ht

/-- A meaning of a two-byte form, run where pc has moved over an immediate, is one of a long form. -/
theorem Lawful.past_immediate {k : State → Result State} {g : State → State} (hk : Lawful o .twoByte k)
    (hg : ∀ s : State, g s = { s with pc := s.pc + 2#16, hid := { s.hid with a := (g s).hid.a, b := (g s).hid.b } })
    (hseen : Seen fun s => visible (g s)) : Lawful o .long fun s => k (g s) := by
  refine ⟨fun s t h => ?_, fun s s' h => hk.blind _ _ (hseen.eq h)⟩
  obtain ⟨hkeeps, hflags, hpc⟩ := hk.effect (g s) t h
  have hstart : Keeps s (g s) := by rw [hg s]; exact keeps_update ..
  have hg_flags : (g s).flags = s.flags := by rw [hg s]
  have hg_pc : (g s).pc = s.pc + 2#16 := by rw [hg s]
  exact ⟨hstart.trans hkeeps, hg_flags ▸ hflags, fun ho => (hpc ho).trans hg_pc⟩

theorem Lawful.withLong {k : Word → State → Result State} (hk : ∀ imm : Word, Lawful o .twoByte (k imm)) :
    Lawful o .long fun s => withLong s k :=
  .read (r := fun s => readWord s.pc s) (fun _ _ _ => rfl) fun imm =>
    (hk imm).past_immediate (fun _ => rfl) fun _ _ _ => rfl

theorem Lawful.withLongLowByte {k : Byte → State → Result State} (hk : ∀ lo : Byte, Lawful o .twoByte (k lo)) :
    Lawful o .long fun s => withLongLowByte s k :=
  .read (r := fun s => readByte s.pc s) (fun _ _ _ => rfl) fun lo =>
    (hk lo).past_immediate (fun _ => rfl) fun _ _ _ => rfl

end

/-! ## Every instruction -/

/-- How an instruction is executed: under its condition, and lawfully. -/
def Executes (i : Instr) : Prop :=
  ∃ body : State → Result State,
    (∀ s : State, exec i s = conditionally i.cond (formOf i) s body) ∧ Lawful i.fields.opcode (formOf i) body

/-- What every instruction but the reserved forms may do, by what its meaning is made of. -/
theorem executes (i : Instr) (h : i.isReserved = false) : Executes i := by
  cases i with
  | ldiReserved | xcgReserved | flgReserved | pushReserved | popReserved | jReserved | callReserved | retReserved =>
    cases h
  -- one equation of flags: all as they were, or V cleared
  | ldReg | ldShort | offsReg | offsShort | xcg | rrcReg | rrcShort | rlcReg | rlcShort | lsrReg | lsrShort
  | lslReg | lslShort | asrReg | asrShort =>
    exact ⟨_, fun _ => rfl, .registers (fun _ => rfl) (fun _ => rfl) fun _ _ _ => rfl⟩
  | ldLong | offsLong | rrcLong | rlcLong | lsrLong | lslLong | asrLong =>
    exact ⟨_, fun _ => rfl, .withLong fun _ => .registers (fun _ => rfl) (fun _ => rfl) fun _ _ _ => rfl⟩
  -- two equations of flags: C and V cleared, or kept
  | sexReg | sexShort | rorReg | rorShort | rolReg | rolShort | andReg | andShort | orReg | orShort | xorReg
  | xorShort | notReg | notShort =>
    exact ⟨_, fun _ => rfl, .registers (fun _ => rfl) (fun _ => ⟨rfl, rfl⟩) fun _ _ _ => rfl⟩
  | rorLong | rolLong | andLong | orLong | xorLong | notLong =>
    exact ⟨_, fun _ => rfl, .withLong fun _ => .registers (fun _ => rfl) (fun _ => ⟨rfl, rfl⟩) fun _ _ _ => rfl⟩
  | sexLong =>
    exact ⟨_, fun _ => rfl, .withLongLowByte fun _ =>
      .registers (fun _ => rfl) (fun _ => ⟨rfl, rfl⟩) fun _ _ _ => rfl⟩
  -- C and V kept, N cleared
  | clzReg | clzShort | ctzReg | ctzShort | cbsReg | cbsShort =>
    exact ⟨_, fun _ => rfl, .registers (fun _ => rfl) (fun _ => ⟨rfl, rfl, rfl⟩) fun _ _ _ => rfl⟩
  | clzLong | ctzLong | cbsLong =>
    exact ⟨_, fun _ => rfl, .withLong fun _ =>
      .registers (fun _ => rfl) (fun _ => ⟨rfl, rfl, rfl⟩) fun _ _ _ => rfl⟩
  -- every flag from the result or the source
  | negReg | negShort | cmpReg | cmpShort | addReg | addShort | adcReg | adcShort | subReg | subShort | sbcReg
  | sbcShort | flgReg =>
    exact ⟨_, fun _ => rfl, .registers (fun _ => rfl) (fun _ => trivial) fun _ _ _ => rfl⟩
  | negLong | cmpLong | addLong | adcLong | subLong | sbcLong =>
    exact ⟨_, fun _ => rfl, .withLong fun _ => .registers (fun _ => rfl) (fun _ => trivial) fun _ _ _ => rfl⟩
  | flgLong =>
    exact ⟨_, fun _ => rfl, .withLongLowByte fun _ =>
      .registers (fun _ => rfl) (fun _ => trivial) fun _ _ _ => rfl⟩
  -- loads and pops
  | ldiReg | pop =>
    exact ⟨_, fun _ => rfl, .read (fun _ _ _ => rfl) fun _ =>
      .registers (fun _ => rfl) (fun _ => rfl) fun _ _ _ => rfl⟩
  | ldiLong =>
    exact ⟨_, fun _ => rfl, .withLong fun _ => .read (fun _ _ _ => rfl) fun _ =>
      .registers (fun _ => rfl) (fun _ => rfl) fun _ _ _ => rfl⟩
  -- stores and pushes
  | stiByte cond rd rs =>
    exact ⟨_, fun _ => rfl, .of_stores ((stores_writeByte (fun _ _ _ => rfl) fun _ _ _ => rfl).setA _) fun _ => rfl⟩
  | stiWord cond rd rs =>
    exact ⟨_, fun _ => rfl, .of_stores ((stores_storeWord (fun _ _ _ => rfl) fun _ _ _ => rfl).setA _) fun _ => rfl⟩
  | push cond rs => exact ⟨_, fun _ => rfl, .of_stores (stores_pushWord fun _ _ _ => rfl) fun _ => rfl⟩
  -- control transfers
  | jReg => exact ⟨_, fun _ => rfl, .next (fun _ => .of_transfer rfl (by simp [Instr.fields])) fun _ _ _ => rfl⟩
  | jLong =>
    exact ⟨_, fun _ => rfl, .withLong fun _ =>
      .next (fun _ => .of_transfer rfl (by simp [Instr.fields])) fun _ _ _ => rfl⟩
  | callReg =>
    exact ⟨_, fun _ => rfl, .after_stores (stores_pushWord fun _ _ _ => rfl)
      (.next (fun _ => .of_transfer rfl (by simp [Instr.fields])) fun _ _ _ => rfl)⟩
  | callLong =>
    exact ⟨_, fun _ => rfl, .after_stores (stores_pushWord fun _ _ _ => rfl) <|
      .read (fun _ _ _ => rfl) fun _ => .next (fun _ => .of_transfer rfl (by simp [Instr.fields])) fun _ _ _ => rfl⟩
  | ret =>
    exact ⟨_, fun _ => rfl, .read (fun _ _ _ => rfl) fun _ =>
      .next (fun _ => .of_transfer rfl (by simp [Instr.fields])) fun _ _ _ => rfl⟩

/-- An instruction that completes was run lawfully under its condition, or passed over. -/
theorem exec_eq_next {i : Instr} {s t : State} (h : exec i s = .next t) :
    (condHolds i.cond s.flags = true ∧ Effect i.fields.opcode (formOf i) s t) ∨
    (condHolds i.cond s.flags = false ∧ t = passOver (formOf i) s) := by
  cases hr : i.isReserved with
  | true => rw [exec_reserved i s hr] at h; cases h
  | false =>
    obtain ⟨body, hexec, hlawful⟩ := executes i hr
    rw [hexec s] at h
    exact ((conditionally_eq_next ..).1 h).imp_left fun ⟨hc, hbody⟩ => ⟨hc, hlawful.effect s t hbody⟩

theorem effect_of_exec {i : Instr} {s t : State} (h : exec i s = .next t) (hc : condHolds i.cond s.flags = true) :
    Effect i.fields.opcode (formOf i) s t := by
  rcases exec_eq_next h with ⟨-, he⟩ | ⟨hf, -⟩
  · exact he
  · rw [hc] at hf; cases hf

theorem exec_keeps {i : Instr} {s t : State} (h : exec i s = .next t) : Keeps s t := by
  rcases exec_eq_next h with ⟨-, he⟩ | ⟨-, rfl⟩
  · exact he.keeps
  · exact keeps_passOver _ s

/-- Which meaning an instruction has, and whether it is passed over, is decided by what a program can see. -/
theorem exec_blind (i : Instr) : Blind (exec i) := by
  intro s s' hs
  cases hr : i.isReserved with
  | true => rw [exec_reserved i s hr, exec_reserved i s' hr]; exact rfl
  | false =>
    obtain ⟨body, hexec, hlawful⟩ := executes i hr
    have hflags : s.flags = s'.flags := Seen.eq (fun _ _ _ => rfl) hs
    rw [hexec s, hexec s']
    cases hc : condHolds i.cond s.flags with
    | true =>
      rw [conditionally_holds _ _ _ _ hc, conditionally_holds _ _ _ _ (hflags ▸ hc)]
      exact hlawful.blind s s' hs
    | false =>
      rw [conditionally_fails _ _ _ _ hc, conditionally_fails _ _ _ _ (hflags ▸ hc)]
      exact Seen.eq (a := fun u => visible (passOver (formOf i) u)) (fun _ _ _ => by cases formOf i <;> rfl) hs

/-! ## Every step -/

/-- A step that completes took the interrupt, or executed what it fetched. -/
theorem step_eq_next {s t : State} (h : step s = .next t) :
    (s.pending = true ∧ interruptEntry s = .next t) ∨
    (s.pending = false ∧ ∃ (i : Instr) (w : Word), exec i (latch w s) = .next t) := by
  cases hp : s.pending with
  | true => exact .inl ⟨rfl, step_pending s hp ▸ h⟩
  | false =>
    rw [step_running s hp] at h
    obtain ⟨⟨i, s1⟩, hf, ht⟩ := (andThen_eq_next _ _ _).1 h
    obtain ⟨first, second, -, -, -, rfl⟩ := (fetch_eq_next s i s1).1 hf
    exact .inr ⟨rfl, i, _, ht⟩

/-- What an interrupt entry leaves of the state that the boundary speaks of. -/
theorem interruptEntry_frame {s t : State} (h : interruptEntry s = .next t) :
    t.pending = false ∧ t.platform = s.platform ∧ (s.mem.wf = true → t.mem.wf = true) ∧ t.hid.counter = 0 ∧
    t.hid.mode = .interrupt := by
  obtain ⟨u, hpush, rfl⟩ := (interruptEntry_eq_next s t).1 h
  have hkeeps := (stored_of_pushWord hpush).keeps
  exact ⟨rfl, hkeeps.platform, hkeeps.wf, rfl, rfl⟩

/-- Settles O45: an entry leaves mode 3 and an instruction the mode of the word it latched. -/
theorem stepKeepsBoundary : Obligations.StepKeepsBoundary := by
  rintro s t ⟨hwf, -, -⟩ h
  rcases step_eq_next h with ⟨-, h⟩ | ⟨-, i, w, h⟩
  · obtain ⟨-, -, hmem, hcounter, hmode⟩ := interruptEntry_frame h
    exact ⟨hmem hwf, hcounter, .inr hmode⟩
  · have hkeeps := exec_keeps h
    exact ⟨hkeeps.wf hwf, hkeeps.counter, .inl (by rw [hkeeps.mode, hkeeps.latched]; rfl)⟩

theorem interruptEntry_blind : Blind interruptEntry := by
  have hentry : Blind fun u => .next (setAB 2#16 2#16
      { u with pc := interruptEntryAddress, pending := false,
               hid := { u.hid with counter := 0, mode := .interrupt } }) := .next fun _ _ _ => rfl
  exact .andThen (blind_pushWord fun _ _ _ => rfl) hentry

theorem fetched_blind : Blind fun s => andThen (fetch s) fun fetched => exec fetched.1 fetched.2 := by
  have hrun : ∀ w : Word, Blind fun s => exec (decodeWord w) (latch w s) := fun w s s' h =>
    exec_blind _ _ _ (Seen.eq (a := fun u => visible (latch w u)) (fun _ _ _ => rfl) h)
  simp only [fetch, andThen_assoc, andThen_next]
  exact .read (fun _ _ _ => rfl) fun first => .read (fun _ _ _ => rfl) fun second => hrun (wordOfBytes first second)

/-- Settles O49: no part of a step reads a hidden register or the counter of free values into what a program can
see. -/
theorem hiddenStateIsHidden : Obligations.HiddenStateIsHidden := by
  intro s s' h
  have hpending : s.pending = s'.pending := Seen.eq (fun _ _ _ => rfl) h
  cases hp : s.pending with
  | true =>
    rw [step_pending s hp, step_pending s' (hpending ▸ hp)]
    exact interruptEntry_blind s s' h
  | false =>
    rw [step_running s hp, step_running s' (hpending ▸ hp)]
    exact fetched_blind s s' h

/-- Settles O40: the rows of the table, each read off `flagsRule`. -/
theorem flagsTable : Obligations.FlagsTable := by
  intro i s t h hc
  have hrule := (effect_of_exec h hc).flags
  generalize i.fields.opcode = o at hrule
  simp only [List.mem_cons, List.not_mem_nil, or_false]
  refine ⟨?kept, ?rotates, ?counts, ?logic, ?shifts⟩
  case kept => rintro (rfl | rfl | rfl | rfl | rfl | rfl | rfl | rfl | rfl | rfl) <;> exact hrule
  case rotates => rintro (rfl | rfl | rfl) <;> exact hrule
  case counts => rintro (rfl | rfl | rfl) <;> exact hrule
  case logic => rintro (rfl | rfl | rfl | rfl) <;> exact hrule
  case shifts => rintro (rfl | rfl | rfl | rfl | rfl) <;> exact hrule

/-- Settles O42: only J, CALL and RET write pc beyond their own bytes. -/
theorem pcSequence : Obligations.PcSequence := by
  intro i s t ho hc h
  rw [(effect_of_exec h hc).pc ho, formOf]
  cases i.isLong <;> rfl

/-- Settles O43: the instructions keep both, and the entry withdraws the request it answers. -/
theorem pendingAndParameters : Obligations.PendingAndParameters := by
  refine ⟨fun i s t h => ⟨(exec_keeps h).pending, (exec_keeps h).platform⟩, fun s t h => ?_⟩
  rcases step_eq_next h with ⟨-, h⟩ | ⟨hp, i, w, h⟩
  · obtain ⟨hpending, hplatform, -⟩ := interruptEntry_frame h
    exact ⟨hpending, hplatform⟩
  · exact ⟨(exec_keeps h).pending.trans hp, (exec_keeps h).platform⟩

/-! ## Reset and the environment -/

theorem placeBytes_hid (a : Word) (bytes : List Byte) (s : State) : (placeBytes a bytes s).hid = s.hid := by
  induction bytes generalizing a s with
  | nil => rfl
  | cons b rest ih => exact ih (a + 1#16) (storeByte a b s)

theorem modeSelect_zero : modeSelect 0 = .register := by decide

theorem assertReset_atBoundary {s : State} (h : s.mem.wf = true) : (assertReset s).atBoundary :=
  ⟨h, rfl, .inl modeSelect_zero.symm⟩

/-- The map after reset is RAM at every address (log 7). -/
theorem kindAt_reset (a : Word) : kindAt State.reset a = .ram :=
  if_pos ⟨Nat.zero_le _, Nat.le_of_lt_succ a.isLt⟩

/-- Settles O44: of the boundary, placing bytes touches the memory list alone, and reset writes the rest. -/
theorem resetAtBoundary : Obligations.ResetAtBoundary := by
  refine ⟨assertReset_atBoundary reset_mem_wf, rfl, rfl, rfl, fun a => ?_,
    fun s ⟨hwf, hcounter, hmode⟩ => ⟨fun e => ?_, fun a bytes => ?_⟩⟩
  · exact (readByte_eq_fault a _ _).2 (.inr ⟨by rw [kindAt_reset]; decide, rfl, rfl⟩)
  · cases e with
    | irq => exact ⟨hwf, hcounter, hmode⟩
    | reset => exact assertReset_atBoundary hwf
  · exact ⟨placeBytes_wf bytes a s hwf, by rw [placeBytes_hid]; exact hcounter, by rw [placeBytes_hid]; exact hmode⟩

end Sys2Proof.StepLaws
end

section
/-! What writes memory and what a store or a push may do: stores that meet an address that is not RAM (O9), CALL's long
form (O34), and the instructions that leave memory as it was (O41).

A push that completes is named, `pushed`, and reading a byte after it is said once (`readByte_pushed`). That an
instruction leaves memory alone is built, as in `StepLaws`, from one lemma for each shape of a meaning. -/

namespace Sys2Proof.MemoryLaws

open Sys2Proof Sys2Proof.Machine

/-! ## The instructions that write memory, their condition holding -/

section
variable {cond : Cond} {s : State}

theorem exec_stiByte_holds (rd rs : Reg) (hc : condHolds cond s.flags = true) :
    exec (.stiByte cond rd rs) s =
      andThen (writeByte (readReg rd s) (lowByte (readReg rs s)) s) fun s1 =>
      .next (setA (readReg rd s + 1#16) s1) := by
  rw [exec_stiByte, execStiByte, conditionally_holds _ _ _ _ hc]

theorem exec_stiWord_holds (rd rs : Reg) (hc : condHolds cond s.flags = true) :
    exec (.stiWord cond rd rs) s =
      andThen (storeWord (readReg rd s) (readReg rs s) s) fun s1 => .next (setA (readReg rd s + 1#16) s1) := by
  rw [exec_stiWord, execStiWord, conditionally_holds _ _ _ _ hc]

theorem exec_push_holds (rs : Reg) (hc : condHolds cond s.flags = true) :
    exec (.push cond rs) s = pushWord (readReg rs s) s := by
  rw [exec_push, execPush, conditionally_holds _ _ _ _ hc]

theorem exec_callReg_holds (rs : Reg) (hc : condHolds cond s.flags = true) :
    exec (.callReg cond rs) s = andThen (pushWord s.pc s) fun s1 => .next (setPc (readReg rs s1) s1) := by
  rw [exec_callReg, execCallReg, conditionally_holds _ _ _ _ hc]

theorem exec_callLong_holds (hc : condHolds cond s.flags = true) :
    exec (.callLong cond) s =
      andThen (pushWord (longReturnAddress s) s) fun s1 =>
      andThen (readWord s1.pc s1) fun imm => .next (setAB (lowPart imm) (highPart imm) (setPc imm s1)) := by
  rw [exec_callLong, execCallLong, conditionally_holds _ _ _ _ hc]

end

/-! ## Stores that stop -/

theorem storeWord_stops_first {a v : Word} {s : State} (h : kindAt s a ≠ .ram) :
    storeWord a v s = .fault (.badAccess a) := by
  rw [storeWord, writeByte_not_ram _ _ _ h, andThen_fault]

theorem storeWord_stops_second {a v : Word} {s : State} (h : kindAt s a = .ram) (h' : kindAt s (a + 1#16) ≠ .ram) :
    storeWord a v s = .fault (.badAccess (a + 1#16)) := by
  rw [storeWord, writeByte_ram _ _ _ h, andThen_next]
  exact writeByte_not_ram _ _ _ h'

/-- The first byte below SP, in the order a push stores them, that is not RAM (R55). -/
def PushStopsAt (s : State) (a : Word) : Prop :=
  (kindAt s (readReg .sp s - 1#16) ≠ .ram ∧ a = readReg .sp s - 1#16) ∨
  (kindAt s (readReg .sp s - 1#16) = .ram ∧ kindAt s (readReg .sp s - 2#16) ≠ .ram ∧ a = readReg .sp s - 2#16)

theorem pushWord_of_stopsAt {s : State} {a : Word} (h : PushStopsAt s a) (v : Word) :
    pushWord v s = .fault (.badAccess a) := by
  obtain ⟨hfirst, hsecond⟩ := pushWord_stops v s
  rcases h with ⟨h1, rfl⟩ | ⟨h1, h2, rfl⟩
  · exact hfirst h1
  · exact hsecond h1 h2

/-- Settles O9: each instruction that stores begins with its store or push, and so does interrupt entry. -/
theorem storesStopOutsideRam : Obligations.StoresStopOutsideRam := by
  refine fun s => ⟨fun cond rd rs hc => ⟨fun h => ⟨?byte, ?first⟩, fun h h' => ?second⟩,
    fun a ha => ⟨fun cond rs hc => ⟨?push, ?callReg, ?callLong⟩, fun hp => ?entry⟩⟩
  case byte => rw [exec_stiByte_holds rd rs hc, writeByte_not_ram _ _ _ h, andThen_fault]
  case first => rw [exec_stiWord_holds rd rs hc, storeWord_stops_first h, andThen_fault]
  case second => rw [exec_stiWord_holds rd rs hc, storeWord_stops_second h h', andThen_fault]
  case push => rw [exec_push_holds rs hc, pushWord_of_stopsAt ha]
  case callReg => rw [exec_callReg_holds rs hc, pushWord_of_stopsAt ha, andThen_fault]
  case callLong => rw [exec_callLong_holds hc, pushWord_of_stopsAt ha, andThen_fault]
  case entry => rw [step_pending s hp, interruptEntry, pushWord_of_stopsAt ha, andThen_fault]

/-! ## A push that completes -/

/-- The state a push leaves when the two bytes below SP are RAM. -/
def pushed (v : Word) (s : State) : State :=
  setAB (readReg .sp s - 2#16) 0#16 (writeReg .sp (readReg .sp s - 2#16)
    (storeByte (readReg .sp s - 2#16) (lowByte v) (storeByte (readReg .sp s - 1#16) (highByte v) s)))

@[simp] theorem pushed_pc (v : Word) (s : State) : (pushed v s).pc = s.pc := rfl

theorem readReg_sp_pushed (v : Word) (s : State) : readReg .sp (pushed v s) = readReg .sp s - 2#16 := by
  rw [pushed, readReg_setAB, readReg_writeReg_same]

theorem sameRegsExcept_pushed (v : Word) (s : State) : sameRegsExcept [.sp] s (pushed v s) :=
  fun r hr => readReg_writeReg_other .sp r _ _ fun h => hr (h ▸ List.mem_singleton_self _)

theorem sameBeyond_pushed (v : Word) (s : State) : sameBeyond s (pushed v s) := ⟨rfl, rfl, rfl, rfl, rfl, rfl⟩

theorem sub_one_ne_sub_two (a : Word) : a - 1#16 ≠ a - 2#16 := by bv_omega

section
variable {s : State}

/-- Both bytes below SP take a store. -/
def Pushable (s : State) : Prop :=
  kindAt s (readReg .sp s - 1#16) = .ram ∧ kindAt s (readReg .sp s - 2#16) = .ram

theorem pushWord_of_pushable (h : Pushable s) (v : Word) : pushWord v s = .next (pushed v s) :=
  pushWord_ram v s h.1 h.2

/-- Every byte after a push: the two that it stored, and the others as they were. -/
theorem readByte_pushed (h : Pushable s) (v a : Word) :
    readByte a (pushed v s) =
      if a = readReg .sp s - 1#16 then .next (highByte v)
      else if a = readReg .sp s - 2#16 then .next (lowByte v)
      else readByte a s := by
  obtain ⟨h1, h2⟩ := h
  rw [pushed, readByte_setAB, readByte_writeReg]
  split_ifs with ha ha'
  · rw [ha, readByte_storeByte_other _ _ _ _ (sub_one_ne_sub_two _), readByte_storeByte_same _ _ _ h1]
  · rw [ha', readByte_storeByte_same _ _ _ ((kindAt_storeByte ..).trans h2)]
  · rw [readByte_storeByte_other _ _ _ _ ha', readByte_storeByte_other _ _ _ _ ha]

theorem readByte_pushed_high (h : Pushable s) (v : Word) :
    readByte (readReg .sp s - 1#16) (pushed v s) = .next (highByte v) := by
  rw [readByte_pushed h, if_pos rfl]

theorem readByte_pushed_low (h : Pushable s) (v : Word) :
    readByte (readReg .sp s - 2#16) (pushed v s) = .next (lowByte v) := by
  rw [readByte_pushed h, if_neg (sub_one_ne_sub_two _).symm, if_pos rfl]

theorem sameMemoryExcept_pushed (h : Pushable s) (v : Word) :
    sameMemoryExcept [readReg .sp s - 1#16, readReg .sp s - 2#16] s (pushed v s) := by
  intro a ha
  obtain ⟨ha1, ha2⟩ : a ≠ readReg .sp s - 1#16 ∧ a ≠ readReg .sp s - 2#16 := by simpa using ha
  rw [readByte_pushed h, if_neg ha1, if_neg ha2]

/-- What a byte reads as after a push, in the words of the statement about CALL's long form. -/
theorem readByte_pushed_eq_next (h : Pushable s) {v a : Word} {b : Byte}
    (hb : if a = readReg .sp s - 1#16 then b = highByte v
      else if a = readReg .sp s - 2#16 then b = lowByte v
      else readByte a s = .next b) :
    readByte a (pushed v s) = .next b := by
  rw [readByte_pushed h]
  split_ifs at hb ⊢
  · rw [hb]
  · rw [hb]
  · exact hb

/-- CALL in its long form: the push, and then the jump to what the immediate reads as after it. -/
theorem exec_callLong_next {cond : Cond} {imm : Word} (hc : condHolds cond s.flags = true) (h : Pushable s)
    (himm : readWord s.pc (pushed (longReturnAddress s) s) = .next imm) :
    exec (.callLong cond) s =
      .next (setAB (lowPart imm) (highPart imm) (setPc imm (pushed (longReturnAddress s) s))) := by
  rw [exec_callLong_holds hc, pushWord_of_pushable h, andThen_next, pushed_pc, himm, andThen_next]

end

theorem encodeWord_callLong (cond : Cond) : encodeWord (.callLong cond) = figure 0b01111#5 cond 1 0 0b100#3 := rfl

/-- Settles O34: the immediate is read in the state the push leaves, and the jump changes pc, A and B of that state. -/
theorem callLongResult : Obligations.CallLongResult := by
  refine fun cond s lo hi hc => ⟨encodeWord_callLong cond, fun h1 h2 => ?_⟩
  intro ra afterPush hlo hhi
  have hpush : Pushable s := ⟨h1, h2⟩
  have himm : readWord s.pc (pushed (longReturnAddress s) s) = .next (immOfBytes lo hi) :=
    (readWord_eq_next _ _ _).2
      ⟨lo, hi, readByte_pushed_eq_next hpush hlo, readByte_pushed_eq_next hpush hhi, rfl⟩
  exact ⟨_, exec_callLong_next hc hpush himm, readByte_pushed_high hpush _, readByte_pushed_low hpush _,
    sameMemoryExcept_pushed hpush _, readReg_sp_pushed _ s, sameRegsExcept_pushed _ s, rfl, rfl,
    sameBeyond_pushed _ s⟩

/-! ## Instructions that leave memory as it was -/

/-- A meaning, or a part of one, that does not store. -/
def LeavesMemory (body : State → Result State) : Prop := ∀ s t : State, body s = .next t → t.mem = s.mem

theorem LeavesMemory.next {g : State → State} (hg : ∀ s : State, (g s).mem = s.mem) :
    LeavesMemory fun s => .next (g s) :=
  fun s _ h => Host.Outcome.next.inj h ▸ hg s

theorem LeavesMemory.read {α : Type} {r : State → Result α} {k : α → State → Result State}
    (hk : ∀ x : α, LeavesMemory (k x)) : LeavesMemory fun s => andThen (r s) fun x => k x s := by
  intro s t h
  obtain ⟨x, -, hx⟩ := (andThen_eq_next _ _ _).1 h
  exact hk x s t hx

theorem LeavesMemory.withLong {k : Word → State → Result State} (hk : ∀ imm : Word, LeavesMemory (k imm)) :
    LeavesMemory fun s => withLong s k := by
  intro s t h
  obtain ⟨imm, -, himm⟩ := (withLong_eq_next s k t).1 h
  have hmem := hk imm _ t himm
  rwa [setAB_mem, setPc_mem] at hmem

theorem LeavesMemory.withLongLowByte {k : Byte → State → Result State} (hk : ∀ lo : Byte, LeavesMemory (k lo)) :
    LeavesMemory fun s => withLongLowByte s k := by
  intro s t h
  obtain ⟨lo, -, hlo⟩ := (withLongLowByte_eq_next s k t).1 h
  have hmem := hk lo _ t hlo
  rwa [setPc_mem] at hmem

theorem LeavesMemory.of_body {i : Instr} {body : State → Result State}
    (hexec : ∀ s : State, exec i s = conditionally i.cond (formOf i) s body) (hbody : LeavesMemory body) :
    LeavesMemory (exec i) := by
  intro s t h
  rw [hexec s] at h
  rcases (conditionally_eq_next ..).1 h with ⟨-, h⟩ | ⟨-, rfl⟩
  · exact hbody s t h
  · obtain ⟨-, -, -, hmem, -⟩ := passOver_frame (formOf i) s
    exact hmem

theorem LeavesMemory.of_reserved {i : Instr} (h : i.isReserved = true) : LeavesMemory (exec i) := by
  intro s t ht
  rw [exec_reserved i s h] at ht
  cases ht

/-- No instruction but STI, PUSH and CALL has a store in its meaning. -/
theorem leavesMemory_exec (i : Instr) (h : i.fields.opcode ∉ [.sti, .push, .call]) : LeavesMemory (exec i) := by
  cases i with
  | ldiReserved | xcgReserved | flgReserved | pushReserved | popReserved | jReserved | callReserved | retReserved =>
    exact .of_reserved rfl
  | stiByte | stiWord | push | callReg | callLong => simp [Instr.fields] at h
  -- nothing is read from memory
  | ldReg | ldShort | negReg | negShort | sexReg | sexShort | offsReg | offsShort | cmpReg | cmpShort | xcg
  | clzReg | clzShort | ctzReg | ctzShort | cbsReg | cbsShort | flgReg | jReg | andReg | andShort | orReg | orShort
  | xorReg | xorShort | notReg | notShort | addReg | addShort | adcReg | adcShort | subReg | subShort | sbcReg
  | sbcShort | rorReg | rorShort | rolReg | rolShort | rrcReg | rrcShort | rlcReg | rlcShort | lsrReg | lsrShort
  | lslReg | lslShort | asrReg | asrShort =>
    exact .of_body (fun _ => rfl) (.next fun _ => rfl)
  -- the immediate is read
  | ldLong | negLong | offsLong | cmpLong | clzLong | ctzLong | cbsLong | jLong | andLong | orLong | xorLong
  | notLong | addLong | adcLong | subLong | sbcLong | rorLong | rolLong | rrcLong | rlcLong | lsrLong | lslLong
  | asrLong =>
    exact .of_body (fun _ => rfl) (.withLong fun _ => .next fun _ => rfl)
  | sexLong | flgLong => exact .of_body (fun _ => rfl) (.withLongLowByte fun _ => .next fun _ => rfl)
  -- a word is read at a register, or at the immediate
  | ldiReg | pop | ret => exact .of_body (fun _ => rfl) (.read fun _ => .next fun _ => rfl)
  | ldiLong => exact .of_body (fun _ => rfl) (.withLong fun _ => .read fun _ => .next fun _ => rfl)

/-- A byte reads the same in two states with the same memory list and the same map. -/
theorem sameMemory_of_mem_eq {s t : State} (hmem : t.mem = s.mem) (hplatform : t.platform = s.platform) :
    sameMemory s t := by
  intro a
  simp only [readByte, kindAt, byteAt, hmem, hplatform]

/-- Settles O41: the memory list is as it was, and so is the map, which no instruction changes. -/
theorem memoryWriters : Obligations.MemoryWriters :=
  fun i s t ho h => sameMemory_of_mem_eq (leavesMemory_exec i ho s t h) (StepLaws.exec_keeps h).platform

end Sys2Proof.MemoryLaws
end

section
/-! Decoding and encoding (O1, O2, O4, O5), on the five fields of a word.

`fieldsOf` and `packFields` are inverse (`packFields_fieldsOf`), and `decodeWord` is a function of the fields
(`decodeWord_eq_decodeFields`) that has two shapes: three forms by the mode bit and a marker, or two by the mode bit.
Each round trip is a lemma for each shape, used once for each family of instructions or opcodes:
`decodeWord_encodeWord` from instructions, `faithful_decodeWord` from words. -/

namespace Sys2Proof.Encoding

open Sys2Proof Sys2Proof.Machine

/-! ## The fields of a word -/

/-- The five fields of an instruction word. -/
def fieldsOf (w : Word) : Fields := ⟨opcodeOf w, Cond.ofCode (condField w), modeBit w, rdField w, sourceField w⟩

theorem fieldsOf_packFields (f : Fields) : fieldsOf (packFields f) = f := by
  simp [fieldsOf, opcodeOf_packFields, condField_packFields, modeBit_packFields, rdField_packFields,
    sourceField_packFields]

theorem toNat_modeBit (w : Word) : (modeBit w).toNat = w.toNat / 64 % 2 := by
  simp [modeBit, BitVec.getLsbD, Nat.toNat_testBit]

theorem packFields_fieldsOf (w : Word) : packFields (fieldsOf w) = w := by
  apply BitVec.eq_of_toNat_eq
  have hw := w.isLt
  simp only [toNat_packFields, fieldsOf, opcodeOf, Opcode.code_ofCode, Cond.code_ofCode, toNat_modeBit, opcodeField,
    condField, rdField, sourceField, BitVec.extractLsb'_toNat, Nat.shiftRight_eq_div_pow]
  omega

theorem and_append_five (a a' : BitVec 5) (b b' : BitVec 4) (c c' : BitVec 1) (d d' e e' : BitVec 3) :
    (a ++ b ++ c ++ d ++ e) &&& (a' ++ b' ++ c' ++ d' ++ e') =
      (a &&& a') ++ (b &&& b') ++ (c &&& c') ++ (d &&& d') ++ (e &&& e') := by
  simp only [BitVec.and_append]

section
variable (o : Opcode) (cond : Cond) (m : Bool) (rd source : BitVec 3)

/-- A mask of the two register fields alone. -/
theorem packFields_and (rdMask sourceMask : BitVec 3) :
    packFields ⟨o, cond, m, rd, source⟩ &&& (31#5 ++ 15#4 ++ 1#1 ++ rdMask ++ sourceMask) =
      packFields ⟨o, cond, m, rd &&& rdMask, source &&& sourceMask⟩ := by
  have h5 : o.code &&& 31#5 = o.code := BitVec.and_allOnes
  have h4 : cond.code &&& 15#4 = cond.code := BitVec.and_allOnes
  have h1 : BitVec.ofBool m &&& 1#1 = BitVec.ofBool m := BitVec.and_allOnes
  exact (and_append_five ..).trans (by rw [h5, h4, h1]; rfl)

theorem packFields_noRd : packFields ⟨o, cond, m, 0, source⟩ = packFields ⟨o, cond, m, rd, source⟩ &&& 0xFFC7#16 := by
  have h := packFields_and o cond m rd source 0#3 7#3
  rw [BitVec.and_zero, show source &&& 7#3 = source from BitVec.and_allOnes] at h
  exact h.symm

theorem packFields_noSource : packFields ⟨o, cond, m, rd, 0⟩ = packFields ⟨o, cond, m, rd, source⟩ &&& 0xFFF8#16 := by
  have h := packFields_and o cond m rd source 7#3 0#3
  rw [BitVec.and_zero, show rd &&& 7#3 = rd from BitVec.and_allOnes] at h
  exact h.symm

theorem packFields_noRegs : packFields ⟨o, cond, m, 0, 0⟩ = packFields ⟨o, cond, m, rd, source⟩ &&& 0xFFC0#16 := by
  have h := packFields_and o cond m rd source 0#3 0#3
  rw [BitVec.and_zero, BitVec.and_zero] at h
  exact h.symm

end

/-! ## The decoder on fields -/

/-- Three forms, by the mode bit and a long marker; the third is the short one, or reserved. -/
def decodeThree (marker : BitVec 3) (reg : Cond → Reg → Reg → Instr) (third : Cond → Reg → BitVec 3 → Instr)
    (long : Cond → Reg → Instr) (f : Fields) : Instr :=
  if f.m then
    if f.source = marker then long f.cond (Reg.ofCode f.rd) else third f.cond (Reg.ofCode f.rd) f.source
  else reg f.cond (Reg.ofCode f.rd) (Reg.ofCode f.source)

/-- Two forms, by the mode bit. -/
def decodeTwo (clear : Cond → Reg → Reg → Instr) (set : Cond → Reg → BitVec 3 → Instr) (f : Fields) : Instr :=
  if f.m then set f.cond (Reg.ofCode f.rd) f.source else clear f.cond (Reg.ofCode f.rd) (Reg.ofCode f.source)

/-- The decoder of the model on fields, each of its shapes brought to one of these two
(`decodeWord_eq_decodeFields`). -/
def decodeFields (f : Fields) : Instr :=
  match f.opcode with
  | .ld => decodeThree signedMarker .ldReg .ldShort .ldLong f
  | .ldi => decodeThree signedMarker .ldiReg .ldiReserved .ldiLong f
  | .sti => decodeTwo .stiByte (fun cond rd source => .stiWord cond rd (Reg.ofCode source)) f
  | .neg => decodeThree signedMarker .negReg .negShort .negLong f
  | .sex => decodeThree signedMarker .sexReg .sexShort .sexLong f
  | .offs => decodeThree signedMarker .offsReg .offsShort .offsLong f
  | .cmp => decodeThree signedMarker .cmpReg .cmpShort .cmpLong f
  | .xcg => decodeTwo .xcg .xcgReserved f
  | .clz => decodeThree signedMarker .clzReg .clzShort .clzLong f
  | .ctz => decodeThree signedMarker .ctzReg .ctzShort .ctzLong f
  | .cbs => decodeThree signedMarker .cbsReg .cbsShort .cbsLong f
  | .flg => decodeThree signedMarker .flgReg .flgReserved .flgLong f
  | .push => decodeTwo (fun cond _ rs => .push cond rs) .pushReserved f
  | .pop => decodeTwo (fun cond rd _ => .pop cond rd) .popReserved f
  | .j => decodeThree signedMarker (fun cond _ rs => .jReg cond rs) .jReserved (fun cond _ => .jLong cond) f
  | .call =>
    decodeThree signedMarker (fun cond _ rs => .callReg cond rs) .callReserved (fun cond _ => .callLong cond) f
  | .andOp => decodeThree signedMarker .andReg .andShort .andLong f
  | .orOp => decodeThree signedMarker .orReg .orShort .orLong f
  | .xor => decodeThree signedMarker .xorReg .xorShort .xorLong f
  | .notOp => decodeThree signedMarker .notReg .notShort .notLong f
  | .add => decodeThree signedMarker .addReg .addShort .addLong f
  | .adc => decodeThree signedMarker .adcReg .adcShort .adcLong f
  | .sub => decodeThree signedMarker .subReg .subShort .subLong f
  | .sbc => decodeThree signedMarker .sbcReg .sbcShort .sbcLong f
  | .ror => decodeThree unsignedMarker .rorReg .rorShort .rorLong f
  | .rol => decodeThree unsignedMarker .rolReg .rolShort .rolLong f
  | .rrc => decodeThree unsignedMarker .rrcReg .rrcShort .rrcLong f
  | .rlc => decodeThree unsignedMarker .rlcReg .rlcShort .rlcLong f
  | .lsr => decodeThree unsignedMarker .lsrReg .lsrShort .lsrLong f
  | .lsl => decodeThree unsignedMarker .lslReg .lslShort .lslLong f
  | .asr => decodeThree unsignedMarker .asrReg .asrShort .asrLong f
  | .ret => decodeTwo (fun cond _ _ => .ret cond) .retReserved f

theorem decodeWord_eq_decodeFields (w : Word) : decodeWord w = decodeFields (fieldsOf w) := rfl

/-! ## From an instruction to its word and back -/

section
variable {o : Opcode} {cond : Cond} {rd rs : Reg} {marker source : BitVec 3} {reg : Cond → Reg → Reg → Instr}
  {third : Cond → Reg → BitVec 3 → Instr} {long : Cond → Reg → Instr}

theorem decodeThree_register :
    decodeThree marker reg third long ⟨o, cond, false, rd.code, rs.code⟩ = reg cond rd rs := by
  simp [decodeThree]

theorem decodeThree_third (h : source ≠ marker) :
    decodeThree marker reg third long ⟨o, cond, true, rd.code, source⟩ = third cond rd source := by
  simp [decodeThree, h]

theorem decodeThree_long :
    decodeThree marker reg third long ⟨o, cond, true, rd.code, marker⟩ = long cond rd := by
  simp [decodeThree]

theorem decodeTwo_clear : decodeTwo reg third ⟨o, cond, false, rd.code, rs.code⟩ = reg cond rd rs := by
  simp [decodeTwo]

theorem decodeTwo_set : decodeTwo reg third ⟨o, cond, true, rd.code, source⟩ = third cond rd source := by
  simp [decodeTwo]

end

/-- A well-formed instruction is what the decoder makes of its fields; a don't-care field is 000, the code of R0. -/
theorem decodeFields_fields (i : Instr) (h : i.wellFormed = true) : decodeFields i.fields = i := by
  cases i
  all_goals dsimp only [decodeFields, Instr.fields]
  case ldReg | ldiReg | negReg | sexReg | offsReg | cmpReg | clzReg | ctzReg | cbsReg | flgReg | andReg | orReg
    | xorReg | notReg | addReg | adcReg | subReg | sbcReg | rorReg | rolReg | rrcReg | rlcReg | lsrReg | lslReg
    | asrReg =>
    exact decodeThree_register
  case jReg | callReg => exact decodeThree_register (rd := .r0)
  case ldShort | negShort | sexShort | offsShort | cmpShort | clzShort | ctzShort | cbsShort | andShort | orShort
    | xorShort | notShort | addShort | adcShort | subShort | sbcShort | rorShort | rolShort | rrcShort | rlcShort
    | lsrShort | lslShort | asrShort | ldiReserved | flgReserved | jReserved | callReserved =>
    exact decodeThree_third (bne_iff_ne.1 h)
  case ldLong | ldiLong | negLong | sexLong | offsLong | cmpLong | clzLong | ctzLong | cbsLong | flgLong | andLong
    | orLong | xorLong | notLong | addLong | adcLong | subLong | sbcLong | rorLong | rolLong | rrcLong | rlcLong
    | lsrLong | lslLong | asrLong =>
    exact decodeThree_long
  case jLong | callLong => exact decodeThree_long (rd := .r0)
  case stiByte | xcg => exact decodeTwo_clear
  case push => exact decodeTwo_clear (rd := .r0)
  case pop => exact decodeTwo_clear (rs := .r0)
  case ret => exact decodeTwo_clear (rd := .r0) (rs := .r0)
  case stiWord cond rd rs => exact decodeTwo_set.trans (by rw [Reg.ofCode_code])
  case xcgReserved | pushReserved | popReserved | retReserved => exact decodeTwo_set

theorem decodeWord_encodeWord (i : Instr) (h : i.wellFormed = true) : decodeWord (encodeWord i) = i := by
  rw [decodeWord_eq_decodeFields, encodeWord, fieldsOf_packFields, decodeFields_fields i h]

/-- Settles O1: the word decodes to the instruction, and whether it is long decides what follows the word. -/
theorem decodeEncode : Obligations.DecodeEncode := by
  intro i imm rest h
  have hword : decodeWord (wordOfBytes (highByte (encodeWord i)) (lowByte (encodeWord i))) = i := by
    rw [wordOfBytes_parts, decodeWord_encodeWord i h]
  cases hl : i.isLong <;> simp [decode, encode, hl, hword, immOfBytes_parts]

/-- Settles O5: the bytes are computed, and decoding them is O1. -/
theorem workedEncodings : Obligations.WorkedEncodings := by
  intro x hx
  have hbytes : encode x.1 x.2.1 = x.2.2 ∧ x.1.wellFormed = true := by
    revert x
    decide
  obtain ⟨hencode, hwf⟩ := hbytes
  have hdecode := decodeEncode x.1 x.2.1 [] hwf
  rw [List.append_nil, hencode] at hdecode
  exact ⟨hencode, hdecode⟩

/-! ## From a word to its instruction and back -/

/-- What the encoder writes again of a word that was decoded to `i`: all but the don't-care fields (R95). -/
def kept (i : Instr) (w : Word) : Word :=
  match i with
  | .push _ _ | .jReg _ _ | .jLong _ | .callReg _ _ | .callLong _ => w &&& 0xFFC7#16
  | .pop _ _ => w &&& 0xFFF8#16
  | .ret _ => w &&& 0xFFC0#16
  | _ => w

/-- The length rule of R98 on fields. -/
def longFields (f : Fields) : Bool := f.m && f.opcode.hasLong && f.source == longMarker f.opcode

/-- An instruction that a decoder may make of a word with the fields `f`. -/
structure Faithful (f : Fields) (i : Instr) : Prop where
  wellFormed : i.wellFormed = true
  encodes : encodeWord i = kept i (packFields f)
  isLong : i.isLong = longFields f

theorem longFields_of_ne {f : Fields} (h : f.source ≠ longMarker f.opcode) : false = longFields f := by
  simp [longFields, h]

section
variable {o : Opcode} {marker : BitVec 3} {reg : Cond → Reg → Reg → Instr} {third : Cond → Reg → BitVec 3 → Instr}
  {long : Cond → Reg → Instr}

theorem faithful_decodeThree {f : Fields} (ho : f.opcode = o)
    (hreg : ∀ (cond : Cond) (rd rs : Reg), Faithful ⟨o, cond, false, rd.code, rs.code⟩ (reg cond rd rs))
    (hthird : ∀ (cond : Cond) (rd : Reg) (source : BitVec 3), source ≠ marker →
      Faithful ⟨o, cond, true, rd.code, source⟩ (third cond rd source))
    (hlong : ∀ (cond : Cond) (rd : Reg), Faithful ⟨o, cond, true, rd.code, marker⟩ (long cond rd)) :
    Faithful f (decodeThree marker reg third long f) := by
  obtain ⟨_, cond, m, rd, source⟩ := f
  subst ho
  cases m with
  | false => simpa [decodeThree] using hreg cond (Reg.ofCode rd) (Reg.ofCode source)
  | true =>
    by_cases h : source = marker
    · simpa [decodeThree, h] using hlong cond (Reg.ofCode rd)
    · simpa [decodeThree, h] using hthird cond (Reg.ofCode rd) source h

theorem faithful_decodeTwo {f : Fields} (ho : f.opcode = o)
    (hclear : ∀ (cond : Cond) (rd rs : Reg), Faithful ⟨o, cond, false, rd.code, rs.code⟩ (reg cond rd rs))
    (hset : ∀ (cond : Cond) (rd : Reg) (source : BitVec 3),
      Faithful ⟨o, cond, true, rd.code, source⟩ (third cond rd source)) :
    Faithful f (decodeTwo reg third f) := by
  obtain ⟨_, cond, m, rd, source⟩ := f
  subst ho
  cases m with
  | false => simpa [decodeTwo] using hclear cond (Reg.ofCode rd) (Reg.ofCode source)
  | true => simpa [decodeTwo] using hset cond (Reg.ofCode rd) source

end

theorem faithful_stiWord (cond : Cond) (rd : Reg) (source : BitVec 3) :
    Faithful ⟨.sti, cond, true, rd.code, source⟩ (.stiWord cond rd (Reg.ofCode source)) := by
  have hfields : (Instr.stiWord cond rd (Reg.ofCode source)).fields = ⟨.sti, cond, true, rd.code, source⟩ := by
    rw [Instr.fields, Reg.code_ofCode]
  exact ⟨rfl, congrArg packFields hfields, rfl⟩

theorem faithful_decodeFields (f : Fields) : Faithful f (decodeFields f) := by
  rw [decodeFields]
  cases ho : f.opcode
  all_goals dsimp only
  case ld | neg | sex | offs | cmp | clz | ctz | cbs | andOp | orOp | xor | notOp | add | adc | sub | sbc | ldi | flg
    | ror | rol | rrc | rlc | lsr | lsl | asr =>
    exact faithful_decodeThree ho (fun _ _ _ => ⟨rfl, rfl, rfl⟩)
      (fun _ _ _ h => ⟨bne_iff_ne.2 h, rfl, longFields_of_ne h⟩) fun _ _ => ⟨rfl, rfl, rfl⟩
  case j | call =>
    exact faithful_decodeThree ho (fun _ _ _ => ⟨rfl, packFields_noRd .., rfl⟩)
      (fun _ _ _ h => ⟨bne_iff_ne.2 h, rfl, longFields_of_ne h⟩) fun _ _ => ⟨rfl, packFields_noRd .., rfl⟩
  case xcg => exact faithful_decodeTwo ho (fun _ _ _ => ⟨rfl, rfl, rfl⟩) fun _ _ _ => ⟨rfl, rfl, rfl⟩
  case sti => exact faithful_decodeTwo ho (fun _ _ _ => ⟨rfl, rfl, rfl⟩) faithful_stiWord
  case push =>
    exact faithful_decodeTwo ho (fun _ _ _ => ⟨rfl, packFields_noRd .., rfl⟩) fun _ _ _ => ⟨rfl, rfl, rfl⟩
  case pop =>
    exact faithful_decodeTwo ho (fun _ _ _ => ⟨rfl, packFields_noSource .., rfl⟩) fun _ _ _ => ⟨rfl, rfl, rfl⟩
  case ret =>
    exact faithful_decodeTwo ho (fun _ _ _ => ⟨rfl, packFields_noRegs .., rfl⟩) fun _ _ _ => ⟨rfl, rfl, rfl⟩

theorem faithful_decodeWord (w : Word) : Faithful (fieldsOf w) (decodeWord w) := faithful_decodeFields (fieldsOf w)

/-- Settles O2: `faithful_decodeWord`, with the fields packed into the word again. -/
theorem encodeDecode : Obligations.EncodeDecode := by
  intro w
  obtain ⟨hwf, hencodes, -⟩ := faithful_decodeWord w
  rw [packFields_fieldsOf] at hencodes
  exact ⟨hwf, hencodes⟩

/-! ## The length and the mode on the bits of a word -/

/-- The codes of the shifts and rotates (R83). -/
theorem isShift_ofCode : ∀ n : BitVec 5, (Opcode.ofCode n).isShift = true ↔ 0x18#5 ≤ n ∧ n ≤ 0x1E#5 := by decide

/-- All opcodes but STI and those that are two bytes long in every form have a long one. -/
theorem hasLong_ofCode :
    ∀ n : BitVec 5, (Opcode.ofCode n).hasLong = true ↔ n ≠ 0x02#5 ∧ n ∉ [0x07#5, 0x0C#5, 0x0D#5, 0x1F#5] := by
  decide

/-- The two markers of R91, 000 in the shifts and rotates and 100 outside them. -/
theorem sourceField_eq_longMarker (w : Word) :
    sourceField w = longMarker (opcodeOf w) ↔
      (0x18#5 ≤ opcodeField w ∧ opcodeField w ≤ 0x1E#5 ∧ sourceField w = 0b000#3) ∨
      (¬(0x18#5 ≤ opcodeField w ∧ opcodeField w ≤ 0x1E#5) ∧ sourceField w = 0b100#3) := by
  rw [← and_assoc, ← isShift_ofCode, longMarker, opcodeOf]
  cases (Opcode.ofCode (opcodeField w)).isShift <;> simp [signedMarker, unsignedMarker]

/-- R87, on the bits of the word. -/
theorem modeSelect_eq (w : Word) :
    modeSelect w =
      if w.getLsbD 6 = false then .register
      else if (0x18#5 ≤ opcodeField w ∧ opcodeField w ≤ 0x1E#5) ∧ sourceField w = 0b000#3 then .longImmediate
      else if ¬(0x18#5 ≤ opcodeField w ∧ opcodeField w ≤ 0x1E#5) ∧ sourceField w = 0b100#3 then .longImmediate
      else .shortImmediate := by
  simp only [modeSelect, modeBit, sourceField_eq_longMarker, and_assoc]
  cases w.getLsbD 6 with
  | false => rfl
  | true =>
    by_cases hshift : 0x18#5 ≤ opcodeField w ∧ opcodeField w ≤ 0x1E#5
    · simp [hshift]
    · simp [← and_assoc, hshift]

/-- Settles O4: the length on fields (`longFields`), with the codes of the opcodes in the place of their names. -/
theorem lengthRule : Obligations.LengthRule := by
  intro w
  rw [(faithful_decodeWord w).isLong, ← sourceField_eq_longMarker]
  simp only [longFields, fieldsOf, Bool.and_eq_true, beq_iff_eq, opcodeOf, hasLong_ofCode, modeBit]
  tauto

end Sys2Proof.Encoding
end

section
/-! The step and the meanings it calls: what it runs (O6, O7), what it passes over (O12), where it stops (O13), and
that it refuses reserved forms only (O48); and the effect of STI (O16). -/

namespace Sys2Proof.StepRules

open Sys2Proof Sys2Proof.Machine Sys2Proof.StepLaws Sys2Proof.MemoryLaws Sys2Proof.Encoding

/-! ## What a step runs -/

theorem step_of_reads {s : State} {first second : Byte} (hp : s.pending = false) (h1 : readByte s.pc s = .next first)
    (h2 : readByte (s.pc + 1#16) s = .next second) :
    step s = exec (decodeWord (wordOfBytes first second)) (latch (wordOfBytes first second) s) := by
  rw [step_running s hp, (fetch_eq_next s _ _).2 ⟨first, second, h1, h2, rfl, rfl⟩, andThen_next]

/-- Without a request, a step executes the word at pc, or stops where it cannot be read. -/
theorem step_cases {s : State} (hp : s.pending = false) :
    (∃ first second : Byte, readByte s.pc s = .next first ∧ readByte (s.pc + 1#16) s = .next second ∧
      step s = exec (decodeWord (wordOfBytes first second)) (latch (wordOfBytes first second) s)) ∨
    ∃ f : Fault, step s = .fault f := by
  cases hf : fetch s with
  | next fetched =>
    obtain ⟨first, second, h1, h2, -, -⟩ := (fetch_eq_next s fetched.1 fetched.2).1 hf
    exact .inl ⟨first, second, h1, h2, step_of_reads hp h1 h2⟩
  | fault f => exact .inr ⟨f, by rw [step_running s hp, hf, andThen_fault]⟩
  | refused r => exact absurd hf (fetch_not_refused s r)

/-- Settles O6: the state of the statement is the one `latch` leaves. -/
theorem stepRunsDecoded : Obligations.StepRunsDecoded := by
  rintro s first second _ hp h1 h2 rfl
  exact ⟨(faithful_decodeWord _).wellFormed, step_of_reads hp h1 h2⟩

/-- Settles O7: the fetch latches the word and its mode, and no instruction changes either. -/
theorem modeSelectRule : Obligations.ModeSelectRule := by
  refine fun s t h => ⟨fun hp => ?_, fun hp => ?_⟩
  · obtain ⟨-, -, -, -, hmode⟩ := interruptEntry_frame (step_pending s hp ▸ h)
    exact hmode
  · rcases step_cases hp with ⟨first, second, h1, h2, hexec⟩ | ⟨f, hfault⟩
    · have hkeeps := exec_keeps (hexec ▸ h)
      refine ⟨first, second, h1, h2, hkeeps.latched, ?_⟩
      rw [hkeeps.mode, hkeeps.latched]
      exact modeSelect_eq _
    · rw [hfault] at h; cases h

/-- Settles O12: passing over changes pc, A, B and the counter of free values. -/
theorem failedCondition : Obligations.FailedCondition := by
  intro i s hr hc
  obtain ⟨hregs, hflags, hpending, hmem, hplatform, hi, hcounter, hmode, -⟩ := passOver_frame (formOf i) s
  refine ⟨_, exec_passOver i s hr hc, ?_, hregs, hflags, sameMemory_of_mem_eq hmem hplatform, hpending, hplatform,
    hi, hcounter, hmode⟩
  rw [formOf]
  cases i.isLong <;> rfl

/-! ## What a step refuses -/

/-- The outcome of a part of a step that completes or stops at a memory access. -/
def Unrefused {α : Type} (r : Result α) : Prop := ∀ f : Refusal, r ≠ .refused f

theorem Unrefused.next {α : Type} {x : α} : Unrefused (.next x) := fun _ h => nomatch h

theorem Unrefused.andThen {α β : Type} {r : Result α} {k : α → Result β} (hr : Unrefused r)
    (hk : ∀ x : α, Unrefused (k x)) : Unrefused (andThen r k) := by
  intro f h
  rcases (andThen_eq_refused r k f).1 h with h | ⟨x, -, h⟩
  · exact hr f h
  · exact hk x f h

section
variable {s : State}

theorem unrefused_readWord {a : Word} : Unrefused (readWord a s) := readWord_not_refused a s

theorem unrefused_writeByte {a : Word} {v : Byte} : Unrefused (writeByte a v s) := writeByte_not_refused a v s

theorem unrefused_storeWord {a v : Word} : Unrefused (storeWord a v s) :=
  unrefused_writeByte.andThen fun _ => unrefused_writeByte

theorem unrefused_pushWord {v : Word} : Unrefused (pushWord v s) := pushWord_not_refused v s

theorem unrefused_withLong {k : Word → State → Result State} (hk : ∀ (imm : Word) (t : State), Unrefused (k imm t)) :
    Unrefused (withLong s k) :=
  unrefused_readWord.andThen fun imm => hk imm _

theorem unrefused_withLongLowByte {k : Byte → State → Result State}
    (hk : ∀ (lo : Byte) (t : State), Unrefused (k lo t)) : Unrefused (withLongLowByte s k) :=
  Unrefused.andThen (readByte_not_refused s.pc s) fun lo => hk lo _

end

/-- The meaning of an instruction that is not a reserved form refuses in no state. -/
theorem unrefused_body (i : Instr) (h : i.isReserved = false) :
    ∃ body : State → Result State,
      (∀ s : State, exec i s = conditionally i.cond (formOf i) s body) ∧ ∀ s : State, Unrefused (body s) := by
  cases i with
  | ldiReserved | xcgReserved | flgReserved | pushReserved | popReserved | jReserved | callReserved | retReserved =>
    cases h
  -- no access to memory
  | ldReg | ldShort | negReg | negShort | sexReg | sexShort | offsReg | offsShort | cmpReg | cmpShort | xcg
  | clzReg | clzShort | ctzReg | ctzShort | cbsReg | cbsShort | flgReg | jReg | andReg | andShort | orReg | orShort
  | xorReg | xorShort | notReg | notShort | addReg | addShort | adcReg | adcShort | subReg | subShort | sbcReg
  | sbcShort | rorReg | rorShort | rolReg | rolShort | rrcReg | rrcShort | rlcReg | rlcShort | lsrReg | lsrShort
  | lslReg | lslShort | asrReg | asrShort =>
    exact ⟨_, fun _ => rfl, fun _ => .next⟩
  -- the immediate is read
  | ldLong | negLong | offsLong | cmpLong | clzLong | ctzLong | cbsLong | jLong | andLong | orLong | xorLong
  | notLong | addLong | adcLong | subLong | sbcLong | rorLong | rolLong | rrcLong | rlcLong | lsrLong | lslLong
  | asrLong =>
    exact ⟨_, fun _ => rfl, fun _ => unrefused_withLong fun _ _ => .next⟩
  | sexLong | flgLong => exact ⟨_, fun _ => rfl, fun _ => unrefused_withLongLowByte fun _ _ => .next⟩
  -- a word is read at a register, or at the immediate
  | ldiReg | pop | ret => exact ⟨_, fun _ => rfl, fun _ => unrefused_readWord.andThen fun _ => .next⟩
  | ldiLong =>
    exact ⟨_, fun _ => rfl, fun _ => unrefused_withLong fun _ _ => unrefused_readWord.andThen fun _ => .next⟩
  -- stores and pushes
  | stiByte => exact ⟨_, fun _ => rfl, fun _ => unrefused_writeByte.andThen fun _ => .next⟩
  | stiWord => exact ⟨_, fun _ => rfl, fun _ => unrefused_storeWord.andThen fun _ => .next⟩
  | push => exact ⟨_, fun _ => rfl, fun _ => unrefused_pushWord⟩
  | callReg => exact ⟨_, fun _ => rfl, fun _ => unrefused_pushWord.andThen fun _ => .next⟩
  | callLong =>
    exact ⟨_, fun _ => rfl, fun _ => unrefused_pushWord.andThen fun _ => unrefused_readWord.andThen fun _ => .next⟩

theorem unrefused_exec (i : Instr) (s : State) (h : i.isReserved = false) : Unrefused (exec i s) := by
  obtain ⟨body, hexec, hbody⟩ := unrefused_body i h
  rw [hexec, conditionally]
  split
  · exact hbody s
  · exact .next

theorem unrefused_interruptEntry (s : State) : Unrefused (interruptEntry s) :=
  unrefused_pushWord.andThen fun _ => .next

/-- Settles O48: neither the entry nor the fetch refuses, so the instruction does. -/
theorem refusalsAreReserved : Obligations.RefusalsAreReserved := by
  intro s r h
  cases hp : s.pending with
  | true => exact absurd (step_pending s hp ▸ h) (unrefused_interruptEntry s r)
  | false =>
    rcases step_cases hp with ⟨first, second, h1, h2, hexec⟩ | ⟨f, hfault⟩
    · rw [hexec] at h
      cases hr : (decodeWord (wordOfBytes first second)).isReserved with
      | true =>
        rw [exec_reserved _ _ hr] at h
        exact ⟨(Host.Outcome.refused.inj h).symm, rfl, first, second, h1, h2, hr⟩
      | false => exact absurd h (unrefused_exec _ _ hr r)
    · rw [hfault] at h; cases h

/-! ## Reads that stop -/

section
variable {s t : State} {a : Word} {f : Fault}

theorem readByte_stops (h : readRefused s a f) : readByte a s = .fault f := (readByte_eq_fault a s f).2 h

/-- A byte that no stop stands at is read. -/
theorem readByte_reads (h : ∀ g : Fault, readByte a s ≠ .fault g) : ∃ v : Byte, readByte a s = .next v := by
  cases hr : readByte a s with
  | next v => exact ⟨v, rfl⟩
  | fault g => exact absurd hr (h g)
  | refused r => exact absurd hr (readByte_not_refused a s r)

/-- Two bytes read one after the other, where `refused` says which stop. -/
theorem readBytes_stop {α : Type} {refused : Word → Fault → Prop}
    (hr : ∀ (b : Word) (g : Fault), readByte b s = .fault g ↔ refused b g) (h : wordRefused refused a f)
    (k : Byte → Byte → Result α) :
    (andThen (readByte a s) fun x => andThen (readByte (a + 1#16) s) fun y => k x y) = .fault f := by
  rcases h with h | ⟨h, h'⟩
  · rw [(hr a f).2 h, andThen_fault]
  · obtain ⟨v, hv⟩ := readByte_reads fun g hg => h g ((hr a g).1 hg)
    rw [hv, andThen_next, (hr (a + 1#16) f).2 h', andThen_fault]

theorem readWord_stops (h : wordRefused (readRefused s) a f) : readWord a s = .fault f :=
  readBytes_stop (fun b g => readByte_eq_fault b s g) h _

theorem step_stops (hp : s.pending = false) (h : wordRefused (readRefused s) s.pc f) : step s = .fault f := by
  have hfetch : fetch s = .fault f := readBytes_stop (fun b g => readByte_eq_fault b s g) h _
  rw [step_running s hp, hfetch, andThen_fault]

end

/-! ## Long forms that stop at their immediate -/

/-- All long forms but CALL's, which pushes first, and those of SEX and FLG begin with a read of the immediate. -/
theorem exec_withLong (i : Instr) (hl : i.isLong = true) (ho : i.fields.opcode ∉ [.call, .sex, .flg]) :
    ∃ k : Word → State → Result State, ∀ s : State,
      exec i s = conditionally i.cond .long s fun s => withLong s k := by
  cases i with
  | ldLong | ldiLong | negLong | offsLong | cmpLong | clzLong | ctzLong | cbsLong | jLong | andLong | orLong
  | xorLong | notLong | addLong | adcLong | subLong | sbcLong | rorLong | rolLong | rrcLong | rlcLong | lsrLong
  | lslLong | asrLong => exact ⟨_, fun _ => rfl⟩
  | callLong | sexLong | flgLong => simp [Instr.fields] at ho
  | _ => cases hl

/-- The long forms of SEX and FLG begin with a read of the low byte of the immediate (R55). -/
theorem exec_withLongLowByte (i : Instr) (hl : i.isLong = true) (ho : i.fields.opcode ∈ [.sex, .flg]) :
    ∃ k : Byte → State → Result State, ∀ s : State,
      exec i s = conditionally i.cond .long s fun s => withLongLowByte s k := by
  cases i with
  | sexLong | flgLong => exact ⟨_, fun _ => rfl⟩
  | sexReg | sexShort | flgReg | flgReserved => cases hl
  | _ => simp [Instr.fields] at ho

section
variable {s : State} {f : Fault} {cond : Cond}

theorem exec_long_stops {i : Instr} (hl : i.isLong = true) (ho : i.fields.opcode ∉ [.call, .sex, .flg])
    (hc : condHolds i.cond s.flags = true) (h : wordRefused (readRefused s) s.pc f) : exec i s = .fault f := by
  obtain ⟨k, hexec⟩ := exec_withLong i hl ho
  rw [hexec, conditionally_holds _ _ _ _ hc, withLong, readWord_stops h, andThen_fault]

theorem exec_longLowByte_stops {i : Instr} (hl : i.isLong = true) (ho : i.fields.opcode ∈ [.sex, .flg])
    (hc : condHolds i.cond s.flags = true) (h : readRefused s s.pc f) : exec i s = .fault f := by
  obtain ⟨k, hexec⟩ := exec_withLongLowByte i hl ho
  rw [hexec, conditionally_holds _ _ _ _ hc, withLongLowByte, readByte_stops h, andThen_fault]

/-- After a push, the two bytes that it wrote are readable and the others stop as before. -/
theorem readByte_pushed_eq_fault (h : Pushable s) (v a : Word) (g : Fault) :
    readByte a (pushed v s) = .fault g ↔
      a ≠ readReg .sp s - 1#16 ∧ a ≠ readReg .sp s - 2#16 ∧ readRefused s a g := by
  rw [readByte_pushed h]
  split_ifs with h1 h2
  · simp [h1]
  · simp [h2]
  · simp [h1, h2, readByte_eq_fault, readRefused]

theorem exec_callLong_stops (hc : condHolds cond s.flags = true) (h : Pushable s)
    (hword : wordRefused
      (fun a g => a ≠ readReg .sp s - 1#16 ∧ a ≠ readReg .sp s - 2#16 ∧ readRefused s a g) s.pc f) :
    exec (.callLong cond) s = .fault f := by
  have hread : readWord s.pc (pushed (longReturnAddress s) s) = .fault f :=
    readBytes_stop (readByte_pushed_eq_fault h _) hword _
  rw [exec_callLong_holds hc, pushWord_of_pushable h, andThen_next, pushed_pc, hread, andThen_fault]

/-! ## Loads, pops and returns that stop at the word they read -/

theorem loadWord_stops {a : Word} (rd : Reg) (h : wordRefused (readRefused s) a f) : loadWord rd a s = .fault f := by
  rw [loadWord, readWord_stops h, andThen_fault]

theorem exec_ldiReg_stops (rd : Reg) {rs : Reg} (hc : condHolds cond s.flags = true)
    (h : wordRefused (readRefused s) (readReg rs s) f) : exec (.ldiReg cond rd rs) s = .fault f := by
  rw [exec_ldiReg, execLdiReg, conditionally_holds _ _ _ _ hc, loadWord_stops rd h]

/-- LDI in its long form loads in the state that its immediate leaves, where every byte reads as before. -/
theorem exec_ldiLong_stops (rd : Reg) {imm : Word} (hc : condHolds cond s.flags = true)
    (himm : readWord s.pc s = .next imm) (h : wordRefused (readRefused s) imm f) :
    exec (.ldiLong cond rd) s = .fault f := by
  rw [exec_ldiLong, execLdiLong, conditionally_holds _ _ _ _ hc, withLong_next s _ imm himm]
  exact loadWord_stops rd h

theorem topWord_stops (h : wordRefused (readRefused s) (readReg .sp s) f) : topWord s = .fault f := readWord_stops h

theorem exec_pop_stops (rd : Reg) (hc : condHolds cond s.flags = true)
    (h : wordRefused (readRefused s) (readReg .sp s) f) : exec (.pop cond rd) s = .fault f := by
  rw [exec_pop, execPop, conditionally_holds _ _ _ _ hc, topWord_stops h, andThen_fault]

theorem exec_ret_stops (hc : condHolds cond s.flags = true) (h : wordRefused (readRefused s) (readReg .sp s) f) :
    exec (.ret cond) s = .fault f := by
  rw [exec_ret, execRet, conditionally_holds _ _ _ _ hc, returnFrom, topWord_stops h, andThen_fault]

end

/-- Settles O13: each of these begins with a read, but for CALL, which reads in the state its push leaves. -/
theorem unreadableBytesStop : Obligations.UnreadableBytesStop := by
  refine fun s => ⟨fun a f => readByte_eq_fault a s f, fun f hp h => step_stops hp h,
    fun i f hl hc => ⟨fun ho h => exec_long_stops hl ho hc h, fun ho h => exec_longLowByte_stops hl ho hc h⟩,
    fun cond f hc h1 h2 h => exec_callLong_stops hc ⟨h1, h2⟩ h,
    fun cond f hc => ⟨fun rd rs h => exec_ldiReg_stops rd hc h, fun rd lo hi hlo hhi h => ?_,
      fun h => ⟨fun rd => exec_pop_stops rd hc h, exec_ret_stops hc h⟩⟩⟩
  exact exec_ldiLong_stops rd hc ((readWord_eq_next _ _ _).2 ⟨lo, hi, hlo, hhi, rfl⟩) h

/-! ## STI -/

theorem encodeWord_stiByte (cond : Cond) (rd rs : Reg) :
    encodeWord (.stiByte cond rd rs) = figure 0b00010#5 cond 0 rd.code rs.code := rfl

theorem encodeWord_stiWord (cond : Cond) (rd rs : Reg) :
    encodeWord (.stiWord cond rd rs) = figure 0b00010#5 cond 1 rd.code rs.code := rfl

section
variable {s : State} {a : Word}

/-- The state a word store leaves when both bytes are RAM. -/
def wordStored (a v : Word) (s : State) : State := storeByte (a + 1#16) (highByte v) (storeByte a (lowByte v) s)

theorem ne_add_one (a : Word) : a ≠ a + 1#16 := by bv_omega

theorem readByte_wordStored (h : kindAt s a = .ram) (h' : kindAt s (a + 1#16) = .ram) (v b : Word) :
    readByte b (wordStored a v s) =
      if b = a then .next (lowByte v) else if b = a + 1#16 then .next (highByte v) else readByte b s := by
  rw [wordStored]
  split_ifs with ha ha'
  · rw [ha, readByte_storeByte_other _ _ _ _ (ne_add_one a), readByte_storeByte_same _ _ _ h]
  · rw [ha', readByte_storeByte_same _ _ _ ((kindAt_storeByte ..).trans h')]
  · rw [readByte_storeByte_other _ _ _ _ ha', readByte_storeByte_other _ _ _ _ ha]

theorem exec_stiByte_next {cond : Cond} (rd rs : Reg) (hc : condHolds cond s.flags = true)
    (h : kindAt s (readReg rd s) = .ram) :
    exec (.stiByte cond rd rs) s =
      .next (setA (readReg rd s + 1#16) (storeByte (readReg rd s) (lowByte (readReg rs s)) s)) := by
  rw [exec_stiByte_holds rd rs hc, writeByte_ram _ _ _ h, andThen_next]

theorem exec_stiWord_next {cond : Cond} (rd rs : Reg) (hc : condHolds cond s.flags = true)
    (h : kindAt s (readReg rd s) = .ram) (h' : kindAt s (readReg rd s + 1#16) = .ram) :
    exec (.stiWord cond rd rs) s =
      .next (setA (readReg rd s + 1#16) (wordStored (readReg rd s) (readReg rs s) s)) := by
  rw [exec_stiWord_holds rd rs hc, (storeWord_eq_next _ _ _ _).2 ⟨h, h', rfl⟩, andThen_next, wordStored]

end

/-- Settles O16: reading after the store or stores, and A is no part of what the statement speaks of. -/
theorem stiResult : Obligations.StiResult := by
  refine fun cond rd rs s hc =>
    ⟨encodeWord_stiByte cond rd rs, encodeWord_stiWord cond rd rs, fun h => ?byte, fun h h' => ?word⟩
  case byte =>
    refine ⟨_, exec_stiByte_next rd rs hc h, readByte_storeByte_same _ _ _ h, fun a ha => ?_, rfl, rfl, rfl,
      rfl, rfl, rfl, rfl, rfl, rfl⟩
    rw [readByte_setA, readByte_storeByte_other _ _ _ _ fun hne => ha (List.mem_singleton.2 hne)]
  case word =>
    have hread := readByte_wordStored h h' (readReg rs s)
    refine ⟨_, exec_stiWord_next rd rs hc h h', ?low, ?high, fun a ha => ?rest, rfl, rfl, rfl,
      rfl, rfl, rfl, rfl, rfl, rfl⟩
    case low => rw [readByte_setA, hread, if_pos rfl]
    case high => rw [readByte_setA, hread, if_neg (ne_add_one _).symm, if_pos rfl]
    case rest =>
      obtain ⟨h1, h2⟩ : a ≠ readReg rd s ∧ a ≠ readReg rd s + 1#16 := by simpa using ha
      rw [readByte_setA, hread, if_neg h1, if_neg h2]

end Sys2Proof.StepRules
end

section
/-! The conditions (O10), and what they say after CMP (O11). -/

namespace Sys2Proof.ConditionLaws

open Sys2Proof Sys2Proof.Machine

/-- Settles O10. The second half is the shape of the table: a condition and its negation, side by side. -/
theorem conditionTable : Obligations.ConditionTable := by
  refine ⟨fun f => rfl, fun k f => ?_⟩
  obtain ⟨c, n, v, z⟩ := f
  revert k c n v z
  decide

/-! ## The flags of a comparison -/

section
variable (x y : Word) (f : Flags)

/-- C: no borrow. -/
theorem subAlu_c : (subAlu x y f).flags.c = true ↔ y.toNat ≤ x.toNat := by
  have hx := x.isLt; have hy := y.isLt
  simp only [subAlu, adder, sum17, BitVec.toNat_not, decide_eq_true_eq, Bool.toNat_true]
  omega

theorem subAlu_value : (subAlu x y f).value = x - y := by
  apply BitVec.eq_of_toNat_eq
  have hx := x.isLt; have hy := y.isLt
  simp only [subAlu, adder, sum17, BitVec.toNat_not, Bool.toNat_true, BitVec.toNat_ofNat, BitVec.toNat_sub]
  omega

/-- Z: equal operands. -/
theorem subAlu_z : (subAlu x y f).flags.z = true ↔ x = y := by
  have hz : (subAlu x y f).flags.z = isZero (subAlu x y f).value := rfl
  rw [hz, subAlu_value, isZero, beq_iff_eq]
  exact sub_eq_zero

theorem msb_iff_toInt_neg (w : Word) : w.msb = true ↔ w.toInt < 0 := by simp [BitVec.msb_eq_toInt]

section
variable {x y}

/-- Operands of different signs: the sign of the first says which is smaller. -/
theorem msb_iff_lt_of_msb_ne (h : x.msb ≠ y.msb) : x.msb = true ↔ x.toInt < y.toInt := by
  rw [ne_eq, Bool.eq_iff_iff, msb_iff_toInt_neg, msb_iff_toInt_neg] at h
  rw [msb_iff_toInt_neg]
  omega

/-- Operands of one sign: their difference fits, and its sign says which is smaller. -/
theorem msb_sub_iff_lt_of_msb_eq (h : x.msb = y.msb) : (x - y).msb = true ↔ x.toInt < y.toInt := by
  rw [Bool.eq_iff_iff, msb_iff_toInt_neg, msb_iff_toInt_neg] at h
  have hx := x.toInt_lt; have hx' := x.le_toInt; have hy := y.toInt_lt; have hy' := y.le_toInt
  have hfits : (x - y).toInt = x.toInt - y.toInt := by
    rw [BitVec.toInt_sub]
    exact Int.bmod_eq_of_le (by omega) (by omega)
  rw [msb_iff_toInt_neg, hfits]
  omega

end

/-- N against V is the sign of the difference where the operands have one sign, and that of the first otherwise. -/
theorem subAlu_n_xor_v :
    ((subAlu x y f).flags.n ^^ (subAlu x y f).flags.v) = if x.msb = y.msb then (x - y).msb else x.msb := by
  have hn : (subAlu x y f).flags.n = (x - y).msb := by rw [← subAlu_value x y f]; rfl
  have hv : (subAlu x y f).flags.v = (x.msb == !y.msb && (x - y).msb != x.msb) := by
    rw [← subAlu_value x y f, ← show (~~~y).msb = !y.msb by simp]; rfl
  rw [hn, hv]
  generalize x.msb = a, y.msb = b, (x - y).msb = d
  revert a b d
  decide

theorem subAlu_n_xor_v_iff : ((subAlu x y f).flags.n ^^ (subAlu x y f).flags.v) = true ↔ x.toInt < y.toInt := by
  rw [subAlu_n_xor_v]
  split
  next h => exact msb_sub_iff_lt_of_msb_eq h
  next h => exact msb_iff_lt_of_msb_ne h

/-- What the conditions say of two operands, as the statement about CMP has it (R84, R133). -/
def Compares (a b : Word) (g : Flags) : Prop :=
  (condHolds .c g = true ↔ b.toNat ≤ a.toNat) ∧ (condHolds .cc g = true ↔ a.toNat < b.toNat) ∧
  (condHolds .z g = true ↔ a = b) ∧ (condHolds .nz g = true ↔ a ≠ b) ∧
  (condHolds .ls g = true ↔ a.toNat ≤ b.toNat) ∧ (condHolds .hi g = true ↔ b.toNat < a.toNat) ∧
  (condHolds .lt g = true ↔ a.toInt < b.toInt) ∧ (condHolds .ge g = true ↔ b.toInt ≤ a.toInt) ∧
  (condHolds .le g = true ↔ a.toInt ≤ b.toInt) ∧ (condHolds .gt g = true ↔ b.toInt < a.toInt)

/-- Flags whose C, Z and N against V say how two operands compare. -/
theorem compares_of_flags {a b : Word} {g : Flags} (hc : g.c = true ↔ b.toNat ≤ a.toNat) (hz : g.z = true ↔ a = b)
    (hlt : (g.n ^^ g.v) = true ↔ a.toInt < b.toInt) : Compares a b g := by
  have hnat : a = b ↔ a.toNat = b.toNat := BitVec.toNat_eq
  have hint : a = b ↔ a.toInt = b.toInt := BitVec.toInt_inj.symm
  refine ⟨hc, ?cc, hz, ?nz, ?ls, ?hi, hlt, ?ge, ?le, ?gt⟩ <;>
    simp only [condHolds, Bool.and_eq_true, Bool.or_eq_true, Bool.not_eq_true', ← Bool.not_eq_true, hc, hz, hlt]
  case cc | ge => omega
  case ls | hi => rw [hnat]; omega
  case le | gt => rw [hint]; omega

theorem compares_subAlu : Compares x y (subAlu x y f).flags :=
  compares_of_flags (subAlu_c x y f) (subAlu_z x y f) (subAlu_n_xor_v_iff x y f)

end

/-- Settles O11: each form compares the destination with its source operand. -/
theorem compareConditions : Obligations.CompareConditions := by
  refine ⟨⟨fun cond rd rs => ⟨rfl, fun s hc => ?_⟩, fun cond rd imm _ => ⟨rfl, fun s hc => ?_⟩⟩,
    fun cond rd => ⟨rfl, fun s lo hi hc hlo hhi => ?_⟩⟩
  · rw [exec_cmpReg, execCmpReg, conditionally_holds _ _ _ _ hc]
    exact ⟨_, rfl, compares_subAlu _ _ s.flags⟩
  · rw [exec_cmpShort, execCmpShort, conditionally_holds _ _ _ _ hc]
    exact ⟨_, rfl, compares_subAlu _ _ s.flags⟩
  · have himm := (readWord_eq_next s.pc s _).2 ⟨lo, hi, hlo, hhi, rfl⟩
    rw [exec_cmpLong, execCmpLong, conditionally_holds _ _ _ _ hc, withLong_next s _ _ himm]
    exact ⟨_, rfl, compares_subAlu _ _ s.flags⟩

end Sys2Proof.ConditionLaws
end

section
/-! The assembler: spellings (O59) and OFFS to a label (O60). -/

namespace Sys2Proof.AssemblerLaws

open Sys2Proof Sys2Proof.Machine

/-! ## Spellings -/

/-- Every mnemonic, to decide a statement about all of them. -/
def mnemonics : List Mnemonic :=
  [.ld, .ldb, .neg, .sex, .offs, .cmp, .xcg, .clz, .ctz, .cbs, .flg, .push, .pop, .j, .call, .andOp, .orOp, .xor,
   .notOp, .add, .adc, .sub, .sbc, .ror, .rol, .rrc, .rlc, .lsr, .lsl, .asr, .ret]

theorem mem_mnemonics (m : Mnemonic) : m ∈ mnemonics := by cases m <;> decide

/-- The one mnemonic that begins another is `ld`, which begins `ldb`. -/
theorem eq_or_ld_ldb_of_text_prefix (m m' : Mnemonic) (h : m.text <+: m'.text) : m = m' ∨ (m = .ld ∧ m' = .ldb) := by
  have hall : ∀ m ∈ mnemonics, ∀ m' ∈ mnemonics, m.text <+: m'.text → m = m' ∨ (m = .ld ∧ m' = .ldb) := by decide
  exact hall m (mem_mnemonics m) m' (mem_mnemonics m') h

/-- No suffix begins with the letter that makes `ldb` of `ld`. -/
theorem condSuffix_ne_b_cons (cond : Cond) (rest : List Char) : condSuffix cond ≠ 'b' :: rest := by
  cases cond <;> simp [condSuffix]

theorem condSuffix_injective {cond cond' : Cond} (h : condSuffix cond = condSuffix cond') : cond = cond' := by
  have hall : ∀ k k' : BitVec 4, condSuffix (Cond.ofCode k) = condSuffix (Cond.ofCode k') → k = k' := by decide
  rw [← Cond.ofCode_code cond, ← Cond.ofCode_code cond'] at h
  rw [← Cond.ofCode_code cond, hall _ _ h, Cond.ofCode_code]

/-- Equal spellings, the first with the shorter mnemonic, or one as short. -/
theorem spelling_injective_of_prefix {m m' : Mnemonic} {cond cond' : Cond} (h : spelling m cond = spelling m' cond')
    (hm : m.text <+: m'.text) : m = m' ∧ cond = cond' := by
  rcases eq_or_ld_ldb_of_text_prefix m m' hm with rfl | ⟨rfl, rfl⟩
  · exact ⟨rfl, condSuffix_injective (List.append_cancel_left h)⟩
  · have hsuffix : condSuffix cond = 'b' :: condSuffix cond' := List.append_cancel_left (as := ['l', 'd']) h
    exact absurd hsuffix (condSuffix_ne_b_cons cond _)

/-- Settles O59: of two spellings that are equal, one mnemonic begins the other. -/
theorem spellingUnambiguous : Obligations.SpellingUnambiguous := by
  intro m m' cond cond' h
  have hm : m.text <+: spelling m cond := List.prefix_append ..
  have hm' : m'.text <+: spelling m cond := h ▸ List.prefix_append ..
  rcases List.prefix_or_prefix_of_prefix hm hm' with hp | hp
  · exact spelling_injective_of_prefix h hp
  · exact (spelling_injective_of_prefix h.symm hp).imp Eq.symm Eq.symm

/-! ## OFFS to a label -/

theorem exec_offsShort_next {cond : Cond} {s : State} (rd : Reg) (imm : BitVec 3) (hc : condHolds cond s.flags = true) :
    exec (.offsShort cond rd imm) s =
      .next (setAB (shortDoubled imm) s.pc (writeReg rd (s.pc + shortDoubled imm) s)) := by
  rw [exec_offsShort, execOffsShort, conditionally_holds _ _ _ _ hc, offset]

theorem exec_offsLong_next {cond : Cond} {s : State} {imm : Word} (rd : Reg) (hc : condHolds cond s.flags = true)
    (himm : readWord s.pc s = .next imm) :
    exec (.offsLong cond rd) s =
      .next (setAB imm (s.pc + 2#16) (writeReg rd (s.pc + 2#16 + imm)
        (setAB (highPart imm) (lowPart imm) (setPc (s.pc + 2#16) s)))) := by
  rw [exec_offsLong, execOffsLong, conditionally_holds _ _ _ _ hc, withLong_next s _ imm himm, offset]
  rfl

/-- The short form's immediate stands for an even distance from -6 to 6, and is not the long marker (R89, R92). -/
theorem shortDoubled_half {d : Int} (hlow : -6 ≤ d) (hhigh : d ≤ 6) (heven : d % 2 = 0) :
    shortDoubled (BitVec.ofInt 3 (d / 2)) = BitVec.ofInt 16 d ∧ BitVec.ofInt 3 (d / 2) ≠ signedMarker := by
  obtain ⟨k, rfl⟩ : ∃ k : Int, d = 2 * k := ⟨d / 2, by omega⟩
  have hk : -3 ≤ k := by omega
  have hk' : k ≤ 3 := by omega
  interval_cases k <;> decide

theorem readReg_sameRegs_of_writeReg (rd : Reg) (x y : Word) (v : Word) (s : State) :
    readReg rd (setAB x y (writeReg rd v s)) = v ∧ sameRegsExcept [rd] s (setAB x y (writeReg rd v s)) :=
  ⟨readReg_writeReg_same rd v s, fun r hr =>
    readReg_writeReg_other rd r v s fun h => hr (List.mem_singleton.2 h)⟩

/-- Settles O60: the short form adds the distance from pc, the long form that from pc moved over the immediate. -/
theorem offsOfLabel : Obligations.OffsOfLabel := by
  intro cond rd label s hc a
  have hhere : s.pc - 2#16 + 2#16 = s.pc := BitVec.sub_add_cancel ..
  by_cases hshort : -6 ≤ distance s.pc label ∧ distance s.pc label ≤ 6 ∧ distance s.pc label % 2 = 0
  · have ha : a = ⟨.offsShort cond rd (BitVec.ofInt 3 (distance s.pc label / 2)), 0⟩ := by
      simp only [a, offsToLabel, hhere, if_pos hshort]
    obtain ⟨hlow, hhigh, heven⟩ := hshort
    obtain ⟨hvalue, hmarker⟩ := shortDoubled_half hlow hhigh heven
    have hlabel : s.pc + BitVec.ofInt 16 (distance s.pc label) = label := by
      rw [distance, BitVec.ofInt_toInt, BitVec.add_comm, BitVec.sub_add_cancel]
    rw [ha]
    refine ⟨bne_iff_ne.2 hmarker, fun _ => ⟨_, exec_offsShort_next rd _ hc, ?_⟩⟩
    rw [hvalue, hlabel]
    exact readReg_sameRegs_of_writeReg ..
  · have ha : a = ⟨.offsLong cond rd, label - (s.pc - 2#16 + 4#16)⟩ := by
      simp only [a, offsToLabel, hhere, if_neg hshort]
    have hlabel : s.pc + 2#16 + (label - (s.pc - 2#16 + 4#16)) = label := by bv_omega
    rw [ha]
    refine ⟨rfl, fun himm => ⟨_, exec_offsLong_next rd hc (himm rfl), ?_⟩⟩
    rw [hlabel]
    exact readReg_sameRegs_of_writeReg ..

end Sys2Proof.AssemblerLaws
end

section
/-! The loads: what LD (O14) and LDI (O15) write into the destination register. -/

namespace Sys2Proof.LoadLaws

open Sys2Proof Sys2Proof.Machine Sys2Proof.MemoryLaws

/-! ## The shapes of a statement about an instruction -/

/-- A state that differs by a register write, and in flags, pc, A and B, is one that `wroteReg` allows. -/
theorem wroteReg_of_eq {rd : Reg} {v : Word} {s t : State}
    (h : t = { writeReg rd v s with
               pc := t.pc, flags := t.flags, hid := { s.hid with a := t.hid.a, b := t.hid.b } }) :
    wroteReg rd v s t := by
  rw [h]
  refine ⟨readReg_writeReg_same rd v s, fun r hr => ?others, sameMemory_of_mem_eq rfl rfl,
    rfl, rfl, rfl, rfl, rfl, rfl⟩
  case others => exact readReg_writeReg_other rd r v s fun hne => hr (List.mem_singleton.2 hne)

/-- A long form is settled by its encoding and by what it does with the word that its immediate reads as. -/
theorem longForm_of_readWord {opcode : BitVec 5} {marker : BitVec 3} {long : Cond → Reg → Instr}
    {after : Reg → Word → Word → State → State → Prop}
    (hencode : ∀ (cond : Cond) (rd : Reg), encodeWord (long cond rd) = figure opcode cond 1 rd.code marker)
    (hexec : ∀ (cond : Cond) (rd : Reg) (s : State) (imm : Word), condHolds cond s.flags = true →
      readWord s.pc s = .next imm →
      ∃ t : State, exec (long cond rd) s = .next t ∧ after rd imm (s.pc + 2#16) s t) :
    longForm opcode marker long after :=
  fun cond rd => ⟨hencode cond rd, fun s lo hi hc hlo hhi =>
    hexec cond rd s _ hc ((readWord_eq_next _ _ _).2 ⟨lo, hi, hlo, hhi, rfl⟩)⟩

section
variable {cond : Cond} {s : State}

/-! ## LD -/

theorem exec_ldReg_next (rd rs : Reg) (hc : condHolds cond s.flags = true) :
    exec (.ldReg cond rd rs) s =
      .next (setAB (readReg rs s) (readReg rs s) (writeReg rd (readReg rs s) s)) := by
  rw [exec_ldReg, execLdReg, conditionally_holds _ _ _ _ hc]

theorem exec_ldShort_next (rd : Reg) (imm : BitVec 3) (hc : condHolds cond s.flags = true) :
    exec (.ldShort cond rd imm) s = .next (setA s.hid.i (writeReg rd (shortSigned imm) s)) := by
  rw [exec_ldShort, execLdShort, conditionally_holds _ _ _ _ hc]

theorem exec_ldLong_next (rd : Reg) {imm : Word} (hc : condHolds cond s.flags = true)
    (himm : readWord s.pc s = .next imm) :
    exec (.ldLong cond rd) s =
      .next (writeReg rd imm (setAB (highPart imm) (lowPart imm) (setPc (s.pc + 2#16) s))) := by
  rw [exec_ldLong, execLdLong, conditionally_holds _ _ _ _ hc, withLong_next s _ imm himm]

/-! ## LDI -/

theorem loadWord_next (rd : Reg) {a v : Word} (h : readWord a s = .next v) :
    loadWord rd a s = .next (setAB (highPart v) (lowPart v) (writeReg rd v s)) := by
  rw [loadWord, h, andThen_next]

theorem exec_ldiReg_next (rd : Reg) {rs : Reg} {v : Word} (hc : condHolds cond s.flags = true)
    (h : readWord (readReg rs s) s = .next v) :
    exec (.ldiReg cond rd rs) s = .next (setAB (highPart v) (lowPart v) (writeReg rd v s)) := by
  rw [exec_ldiReg, execLdiReg, conditionally_holds _ _ _ _ hc, loadWord_next rd h]

/-- The load runs in the state that the immediate leaves, where every word reads as before. -/
theorem exec_ldiLong_next (rd : Reg) {imm v : Word} (hc : condHolds cond s.flags = true)
    (himm : readWord s.pc s = .next imm) (h : readWord imm s = .next v) :
    exec (.ldiLong cond rd) s =
      .next (setAB (highPart v) (lowPart v) (writeReg rd v
        (setAB (highPart imm) (lowPart imm) (setPc (s.pc + 2#16) s)))) := by
  rw [exec_ldiLong, execLdiLong, conditionally_holds _ _ _ _ hc, withLong_next s _ imm himm]
  exact loadWord_next rd h

end

/-- Settles O14: each form writes its operand, and besides it A, B and, in the long form, pc. -/
theorem ldResult : Obligations.LdResult := by
  refine ⟨⟨fun cond rd rs => ⟨rfl, fun s hc => ?reg⟩, fun cond rd imm _ => ⟨rfl, fun s hc => ?short⟩⟩,
    longForm_of_readWord (fun _ _ => rfl) fun cond rd s imm hc himm => ?long⟩
  case reg => exact ⟨_, exec_ldReg_next rd rs hc, wroteReg_of_eq rfl, rfl, rfl⟩
  case short => exact ⟨_, exec_ldShort_next rd imm hc, wroteReg_of_eq rfl, rfl, rfl⟩
  case long => exact ⟨_, exec_ldLong_next rd hc himm, wroteReg_of_eq rfl, rfl, rfl⟩

/-- Settles O15: the two bytes are one word read, whose address is computed before the destination is written. -/
theorem ldiResult : Obligations.LdiResult := by
  refine fun cond rd rs s hc =>
    ⟨rfl, rfl, fun lo hi hlo hhi => ?reg, fun immLo immHi lo hi himmLo himmHi hlo hhi => ?long⟩
  case reg =>
    have hword := (readWord_eq_next _ s _).2 ⟨lo, hi, hlo, hhi, rfl⟩
    exact ⟨_, exec_ldiReg_next rd hc hword, wroteReg_of_eq rfl, rfl, rfl⟩
  case long =>
    have himm := (readWord_eq_next _ s _).2 ⟨immLo, immHi, himmLo, himmHi, rfl⟩
    have hword := (readWord_eq_next (immOfBytes immLo immHi) s _).2 ⟨lo, hi, hlo, hhi, rfl⟩
    exact ⟨_, exec_ldiLong_next rd hc himm hword, wroteReg_of_eq rfl, rfl, rfl⟩

end Sys2Proof.LoadLaws
end

section
/-! Arithmetic: the adder (O23), and the result, flags and frame of NEG (O17), SEX (O18), OFFS (O19), CMP (O20), ADD and
ADC (O21), SUB and SBC (O22).

A statement about the three forms of an instruction follows from one about its work on a destination, a source and a
state (`signedForms_of_meanings`); the flags of every subtraction follow from those of the addition that the adder does
in its place (`flagsOfDifference_of_sum`). -/

namespace Sys2Proof.ArithmeticLaws

open Sys2Proof Sys2Proof.Machine Sys2Proof.Microcode Sys2Proof.MemoryLaws Sys2Proof.LoadLaws

/-! ## From the work of an instruction to its three forms -/

/-- The encodings of the three forms, field by field (R81, R88 to R91). -/
structure Encodings (opcode : BitVec 5) (marker : BitVec 3) (reg : Cond → Reg → Reg → Instr)
    (short : Cond → Reg → BitVec 3 → Instr) (long : Cond → Reg → Instr) : Prop where
  reg : ∀ (cond : Cond) (rd rs : Reg), encodeWord (reg cond rd rs) = figure opcode cond 0 rd.code rs.code
  short : ∀ (cond : Cond) (rd : Reg) (imm : BitVec 3), encodeWord (short cond rd imm) = figure opcode cond 1 rd.code imm
  long : ∀ (cond : Cond) (rd : Reg), encodeWord (long cond rd) = figure opcode cond 1 rd.code marker

/-- What the work of an instruction leads to, whatever state it starts in: the next instruction is at that state's
pc. -/
def Achieves (body : Reg → Word → State → Result State) (after : Reg → Word → Word → State → State → Prop) : Prop :=
  ∀ (rd : Reg) (src : Word) (s : State), ∃ t : State, body rd src s = .next t ∧ after rd src s.pc s t

/-- Of the state before, `after` does not look at what reading a long immediate changes: pc, A and B. -/
def BlindToImmediate (after : Reg → Word → Word → State → State → Prop) : Prop :=
  ∀ (rd : Reg) (src next x y p : Word) (s t : State), after rd src next (setAB x y (setPc p s)) t →
    after rd src next s t

section
variable {opcode : BitVec 5} {marker : BitVec 3} {reg : Cond → Reg → Reg → Instr}
  {short : Cond → Reg → BitVec 3 → Instr} {long : Cond → Reg → Instr} {shortValue : BitVec 3 → Word}
  {body : Reg → Word → State → Result State} {after : Reg → Word → Word → State → State → Prop}

theorem shortForms_of_meanings (he : Encodings opcode marker reg short long)
    (hm : Meanings reg short long shortValue body) (h : Achieves body after) :
    shortForms opcode reg short shortValue after := by
  refine ⟨fun cond rd rs => ⟨he.reg cond rd rs, fun s hc => ?reg⟩,
    fun cond rd imm _ => ⟨he.short cond rd imm, fun s hc => ?short⟩⟩
  case reg =>
    rw [hm.reg, conditionally_holds _ _ _ _ hc]
    exact h rd (readReg rs s) s
  case short =>
    rw [hm.short, conditionally_holds _ _ _ _ hc]
    exact h rd (shortValue imm) s

/-- The work of the long form starts in the state that the immediate leaves. -/
theorem longForm_of_meanings (he : Encodings opcode marker reg short long)
    (hm : Meanings reg short long shortValue body) (h : Achieves body after) (hblind : BlindToImmediate after) :
    longForm opcode marker long after := by
  refine longForm_of_readWord he.long fun cond rd s imm hc himm => ?_
  rw [hm.long, conditionally_holds _ _ _ _ hc, withLong_next s _ imm himm]
  obtain ⟨t, hnext, hafter⟩ := h rd imm (setAB (highPart imm) (lowPart imm) (setPc (s.pc + 2#16) s))
  exact ⟨t, hnext, hblind rd imm _ _ _ _ s t hafter⟩

theorem signedForms_of_meanings (he : Encodings opcode 0b100#3 reg short long)
    (hm : Meanings reg short long shortSigned body) (h : Achieves body after) (hblind : BlindToImmediate after) :
    signedForms opcode reg short long after :=
  ⟨shortForms_of_meanings he hm h, longForm_of_meanings he hm h hblind⟩

/-- An instruction that writes `alu` of its two operands to the destination, given the value and the flags of `alu`. -/
theorem signedForms_of_twoOperand {alu : Word → Word → Flags → AluOut} (result : Word → Word → Flags → Word)
    (isFlags : Word → Word → Flags → Flags → Prop) (he : Encodings opcode 0b100#3 reg short long)
    (hm : Meanings reg short long shortSigned (twoOperand alu))
    (hvalue : ∀ (x y : Word) (f : Flags), (alu x y f).value = result x y f)
    (hflags : ∀ (x y : Word) (f : Flags), isFlags x y f (alu x y f).flags) :
    signedForms opcode reg short long fun rd src next s t =>
      wroteReg rd (result (readReg rd s) src s.flags) s t ∧ t.pc = next ∧
      isFlags (readReg rd s) src s.flags t.flags := by
  refine signedForms_of_meanings he hm (fun rd src s => ?_) fun _ _ _ _ _ _ _ _ h => h
  rw [← hvalue]
  exact ⟨_, twoOperand_eq alu rd src s, wroteReg_of_eq rfl, rfl, hflags ..⟩

end

/-! ## The adder -/

/-- N and Z as the ALU computes them are the sign and the zero of a result. -/
theorem signAndZero_of_eq {r : Word} {f : Flags} (hn : f.n = negative r) (hz : f.z = isZero r) : signAndZero r f := by
  have hsign : r.msb = true ↔ 0x8000 ≤ r.toNat := by
    rw [BitVec.msb_eq_decide, decide_eq_true_eq]
  exact ⟨by rw [hn]; exact hsign, by rw [hz]; exact beq_iff_eq⟩

section
variable (x y : Word) (cin : Bool)

theorem toNat_adder_value : (adder x y cin).value.toNat = (x.toNat + y.toNat + cin.toNat) % 2 ^ 16 :=
  BitVec.toNat_ofNat ..

theorem adder_v : (adder x y cin).flags.v = true ↔ x.msb = y.msb ∧ (adder x y cin).value.msb ≠ x.msb := by
  have hv : (adder x y cin).flags.v = ((x.msb == y.msb) && ((adder x y cin).value.msb != x.msb)) := rfl
  rw [hv, Bool.and_eq_true, beq_iff_eq, bne_iff_ne]

/-- Sign bits and range agree on the overflow of a sum: by R138 the result is the sum of the operands, less 65536 or
not. -/
theorem adder_outOfRange :
    (x.msb = y.msb ∧ (adder x y cin).value.msb ≠ x.msb) ↔ outOfRange (x.toInt + y.toInt + cin.toNat) := by
  have hr := toNat_adder_value x y cin
  have hx := x.isLt; have hy := y.isLt; have hcin := cin.toNat_le
  simp only [outOfRange, BitVec.msb_eq_decide, BitVec.toInt_eq_toNat_cond, ne_eq, decide_eq_decide, hr]
  omega

theorem adder_flagsOfSum : flagsOfSum x y cin (adder x y cin).value (adder x y cin).flags :=
  ⟨decide_eq_true_iff, (adder_v x y cin).trans (adder_outOfRange x y cin), signAndZero_of_eq rfl rfl⟩

/-- Settles O23: the two readings of overflow are `adder_v` and `adder_outOfRange`. -/
theorem adderLaws : Obligations.AdderLaws :=
  fun x y cin => ⟨toNat_adder_value x y cin, adder_flagsOfSum x y cin, adder_v x y cin⟩

/-- The result without `toNat`: the carry in is a word of one bit. -/
theorem adder_value : (adder x y cin).value = x + y + (BitVec.ofBool cin).setWidth 16 := by
  apply BitVec.eq_of_toNat_eq
  rw [toNat_adder_value]
  cases cin <;> simp [BitVec.toNat_add]

/-! ## Subtraction -/

variable {x y cin}

/-- The flags of `x + ~y + cin` are those of `x - y` less the borrow that the carry in leaves out (R138, R139). -/
theorem flagsOfDifference_of_sum {r : Word} {f : Flags} (h : flagsOfSum x (~~~y) cin r f) :
    flagsOfDifference x y (!cin) r f := by
  obtain ⟨hc, hv, hnz⟩ := h
  have hy := y.isLt
  have hnot : (~~~y).toInt = -1 - y.toInt := by
    simp only [BitVec.toInt_eq_toNat_cond, BitVec.toNat_not]
    omega
  have hborrow : (!cin).toNat = 1 - cin.toNat := by cases cin <;> rfl
  have hcin := cin.toNat_le
  refine ⟨hc.trans ?carry, hv.trans ?overflow, hnz⟩
  case carry => rw [BitVec.toNat_not, hborrow]; omega
  case overflow => rw [hnot, hborrow, outOfRange, outOfRange]; omega

end

section
variable (x y : Word) (f : Flags)

theorem subAlu_flagsOfDifference : flagsOfDifference x y false (x - y) (subAlu x y f).flags := by
  rw [← ConditionLaws.subAlu_value x y f]
  exact flagsOfDifference_of_sum (adder_flagsOfSum x (~~~y) true)

theorem sbcAlu_value : (sbcAlu x y f).value = x - y - (BitVec.ofBool (!f.c)).setWidth 16 := by
  rw [sbcAlu, adder_value]
  cases f.c <;> simp <;> bv_omega

theorem sbcAlu_flagsOfDifference :
    flagsOfDifference x y (!f.c) (x - y - (BitVec.ofBool (!f.c)).setWidth 16) (sbcAlu x y f).flags := by
  rw [← sbcAlu_value x y f]
  exact flagsOfDifference_of_sum (adder_flagsOfSum x (~~~y) f.c)

end

/-! ## ADD, ADC, SUB, SBC -/

theorem addAlu_value (x y : Word) (f : Flags) : (addAlu x y f).value = x + y := by
  rw [addAlu, adder_value]; simp

/-- Settles O21: both are the adder, with the carry in 0 or the C flag. -/
theorem addResults : Obligations.AddResults := by
  refine ⟨signedForms_of_twoOperand (fun x y _ => x + y) (fun x y _ => flagsOfSum x y false (x + y))
      ⟨fun _ _ _ => rfl, fun _ _ _ => rfl, fun _ _ => rfl⟩
      ⟨fun _ _ _ _ => rfl, fun _ _ _ _ => rfl, fun _ _ _ => rfl⟩ addAlu_value fun x y f => ?addFlags,
    signedForms_of_twoOperand (fun x y f => x + y + (BitVec.ofBool f.c).setWidth 16)
      (fun x y f => flagsOfSum x y f.c (x + y + (BitVec.ofBool f.c).setWidth 16))
      ⟨fun _ _ _ => rfl, fun _ _ _ => rfl, fun _ _ => rfl⟩
      ⟨fun _ _ _ _ => rfl, fun _ _ _ _ => rfl, fun _ _ _ => rfl⟩ (fun x y f => adder_value x y f.c)
      fun x y f => ?adcFlags⟩
  case addFlags =>
    rw [← addAlu_value x y f]
    exact adder_flagsOfSum x y false
  case adcFlags =>
    rw [← adder_value x y f.c]
    exact adder_flagsOfSum x y f.c

/-- Settles O22: both are the adder on the complemented source, with the carry in 1 or the C flag. -/
theorem subResults : Obligations.SubResults :=
  ⟨signedForms_of_twoOperand (fun x y _ => x - y) (fun x y _ => flagsOfDifference x y false (x - y))
      ⟨fun _ _ _ => rfl, fun _ _ _ => rfl, fun _ _ => rfl⟩
      ⟨fun _ _ _ _ => rfl, fun _ _ _ _ => rfl, fun _ _ _ => rfl⟩
      ConditionLaws.subAlu_value subAlu_flagsOfDifference,
    signedForms_of_twoOperand (fun x y f => x - y - (BitVec.ofBool (!f.c)).setWidth 16)
      (fun x y f => flagsOfDifference x y (!f.c) (x - y - (BitVec.ofBool (!f.c)).setWidth 16))
      ⟨fun _ _ _ => rfl, fun _ _ _ => rfl, fun _ _ => rfl⟩
      ⟨fun _ _ _ _ => rfl, fun _ _ _ _ => rfl, fun _ _ _ => rfl⟩ sbcAlu_value sbcAlu_flagsOfDifference⟩

/-! ## CMP, NEG, OFFS, SEX -/

/-- Settles O20: of all that a statement may look at, CMP writes the flags. -/
theorem cmpResult : Obligations.CmpResult :=
  signedForms_of_meanings (body := compare) ⟨fun _ _ _ => rfl, fun _ _ _ => rfl, fun _ _ => rfl⟩
    ⟨fun _ _ _ _ => rfl, fun _ _ _ _ => rfl, fun _ _ _ => rfl⟩
    (fun rd src s => ⟨_, rfl, rfl, sameMemory_of_mem_eq rfl rfl, ⟨rfl, rfl, rfl, rfl, rfl, rfl⟩, rfl,
      subAlu_flagsOfDifference (readReg rd s) src s.flags⟩)
    fun _ _ _ _ _ _ _ _ h => h

section
variable (src : Word) (f : Flags)

theorem subAlu_zero_value : (subAlu 0 src f).value = -src := by rw [ConditionLaws.subAlu_value, zero_sub]

/-- No borrow from 0 is left only by 0. -/
theorem subAlu_zero_c : (subAlu 0 src f).flags.c = true ↔ src = 0 := by
  rw [ConditionLaws.subAlu_c, BitVec.toNat_eq]
  exact Nat.le_zero

/-- 8000 hexadecimal is the one value whose opposite does not fit. -/
theorem subAlu_zero_v : (subAlu 0 src f).flags.v = true ↔ src = 0x8000#16 := by
  obtain ⟨-, hv, -⟩ := subAlu_flagsOfDifference 0 src f
  have hlow := src.le_toInt; have hhigh := src.toInt_lt
  have hzero : (0 : Word).toInt = 0 := rfl
  have hmin : (0x8000#16).toInt = -32768 := rfl
  rw [hv, ← BitVec.toInt_inj, hzero, hmin, outOfRange, Bool.toNat_false]
  omega

end

/-- Settles O17: NEG subtracts from 0. -/
theorem negResult : Obligations.NegResult := by
  refine signedForms_of_meanings (body := negate) ⟨fun _ _ _ => rfl, fun _ _ _ => rfl, fun _ _ => rfl⟩
    ⟨fun _ _ _ _ => rfl, fun _ _ _ _ => rfl, fun _ _ _ => rfl⟩ (fun rd src s => ?_) fun _ _ _ _ _ _ _ _ h => h
  rw [← subAlu_zero_value src s.flags]
  exact ⟨_, rfl, wroteReg_of_eq rfl, rfl, subAlu_zero_c src s.flags, subAlu_zero_v src s.flags,
    signAndZero_of_eq rfl rfl⟩

theorem toInt_shortDoubled (imm : BitVec 3) : (shortDoubled imm).toInt = 2 * imm.toInt := by
  revert imm; decide

/-- Settles O19: the work of OFFS starts with pc moved over the whole instruction. -/
theorem offsResult : Obligations.OffsResult := by
  have he : Encodings 0b00101#5 0b100#3 .offsReg .offsShort .offsLong :=
    ⟨fun _ _ _ => rfl, fun _ _ _ => rfl, fun _ _ => rfl⟩
  have hm : Meanings .offsReg .offsShort .offsLong shortDoubled offset :=
    ⟨fun _ _ _ _ => rfl, fun _ _ _ _ => rfl, fun _ _ _ => rfl⟩
  have h : Achieves offset fun rd src next s t => wroteReg rd (next + src) s t ∧ t.flags = s.flags ∧ t.pc = next :=
    fun rd src s => ⟨_, rfl, wroteReg_of_eq rfl, rfl, rfl⟩
  exact ⟨toInt_shortDoubled, shortForms_of_meanings he hm h,
    longForm_of_meanings he hm h fun _ _ _ _ _ _ _ _ h => h⟩

/-- What SEX achieves, whatever the listing of the form leaves in A and B. -/
theorem signExtendByte_next (rd : Reg) (src x y : Word) (s : State) :
    ∃ t : State, (.next (setAB x y (signExtendByte rd src s)) : Result State) = .next t ∧
      wroteReg rd ((lowByte src).signExtend 16) s t ∧ t.pc = s.pc ∧
      t.flags.c = false ∧ t.flags.v = false ∧ signAndZero ((lowByte src).signExtend 16) t.flags :=
  ⟨_, rfl, wroteReg_of_eq rfl, rfl, rfl, rfl, signAndZero_of_eq rfl rfl⟩

/-- Settles O18: the long form's operand is the one byte that it reads. -/
theorem sexResult : Obligations.SexResult := by
  refine ⟨fun b => BitVec.toInt_signExtend_of_le (by decide),
    ⟨fun cond rd rs => ⟨rfl, fun s hc => ?reg⟩, fun cond rd imm _ => ⟨rfl, fun s hc => ?short⟩⟩,
    fun cond rd => ⟨rfl, fun s lo hc hlo => ?long⟩⟩
  case reg =>
    rw [exec_sexReg, execSexReg, conditionally_holds _ _ _ _ hc]
    exact signExtendByte_next ..
  case short =>
    rw [exec_sexShort, execSexShort, conditionally_holds _ _ _ _ hc]
    exact signExtendByte_next ..
  case long =>
    rw [exec_sexLong, execSexLong, conditionally_holds _ _ _ _ hc, withLongLowByte_next s _ lo hlo]
    have hnext := signExtendByte_next rd (lo.setWidth 16) (lo ++ (0 : Byte)) 8 (setPc (s.pc + 2#16) s)
    rwa [lowByte_setWidth] at hnext

end Sys2Proof.ArithmeticLaws
end

section
/-! Bit twiddling: the count, flags and frame of CLZ, CTZ and CBS (O24).

The three differ only in what they count (`signedForms_of_putCount`). The leading zeros of a word are the bits that its
value leaves free, and its trailing zeros are the leading zeros of the reversed word. -/

namespace Sys2Proof.CountLaws

open Sys2Proof Sys2Proof.Machine Sys2Proof.Microcode Sys2Proof.LoadLaws Sys2Proof.ArithmeticLaws

/-! ## The counts by the bits of the source -/

/-- `n` is the number of leading zeros of `d`, 16 for 0 (R150, decision D20). -/
def IsLeadingZeros (d : Word) (n : Nat) : Prop :=
  n ≤ 16 ∧ (∀ j < n, d.getLsbD (15 - j) = false) ∧ (n < 16 → d.getLsbD (15 - n) = true)

/-- `n` is the number of trailing zeros of `d`, 16 for 0 (R151, decision D20). -/
def IsTrailingZeros (d : Word) (n : Nat) : Prop :=
  n ≤ 16 ∧ (∀ j < n, d.getLsbD j = false) ∧ (n < 16 → d.getLsbD n = true)

theorem leadingZeros_eq (d : Word) : leadingZeros d = 16 - bitLength d := zerosBelow_eq d 16 (bitLength_le d)

/-- No bit at or above the length of the value is set, and the one just below it is. -/
theorem isLeadingZeros_leadingZeros (d : Word) : IsLeadingZeros d (leadingZeros d) := by
  have hle := bitLength_le d
  rw [leadingZeros_eq]
  refine ⟨Nat.sub_le .., fun j hj => ?zeros, fun hn => getLsbD_of_bitLength_eq d _ (by omega)⟩
  case zeros =>
    refine Bool.eq_false_iff.2 fun hbit => ?_
    have hlt := lt_bitLength_of_getLsbD d (15 - j) hbit
    omega

theorem getLsbD_reverseBits_sub (d : Word) {j : Nat} (hj : j < 16) :
    (reverseBits d).getLsbD (15 - j) = d.getLsbD j := by
  rw [← BitVec.getMsbD_reverse (x := d), BitVec.getMsbD_eq_getLsbD, decide_eq_true hj, Bool.true_and, reverseBits]

theorem isTrailingZeros_of_reverseBits {d : Word} {n : Nat} (h : IsLeadingZeros (reverseBits d) n) :
    IsTrailingZeros d n := by
  obtain ⟨hle, hzeros, hone⟩ := h
  refine ⟨hle, fun j hj => ?zeros, fun hn => ?one⟩
  case zeros => rw [← getLsbD_reverseBits_sub d (by omega), hzeros j hj]
  case one => rw [← getLsbD_reverseBits_sub d hn, hone hn]

theorem isTrailingZeros_trailingZeros (d : Word) : IsTrailingZeros d (trailingZeros d) := by
  rw [← leadingZeros_reverseBits]
  exact isTrailingZeros_of_reverseBits (isLeadingZeros_leadingZeros (reverseBits d))

theorem onesBelow_eq_countP (d : Word) (k : Nat) : onesBelow d k = (List.range k).countP fun j => d.getLsbD j := by
  induction k with
  | zero => rfl
  | succ j ih =>
    rw [onesBelow, ih, List.range_succ, List.countP_append, List.countP_singleton]
    cases d.getLsbD j <;> rfl

theorem onesCount_eq_countP (d : Word) : onesCount d = (List.range 16).countP fun j => d.getLsbD j :=
  onesBelow_eq_countP d 16

theorem onesCount_le (d : Word) : onesCount d ≤ 16 := by
  rw [onesCount_eq_countP]
  exact List.countP_le_length

/-! ## From the count to the instruction -/

/-- A count of up to 16 fits in a word, so the word is 0 just when the count is. -/
theorem isZero_ofNat {n : Nat} (h : n ≤ 16) : isZero (BitVec.ofNat 16 n) = true ↔ n = 0 := by
  rw [isZero, beq_iff_eq, BitVec.toNat_eq, BitVec.toNat_ofNat, Nat.mod_eq_of_lt (by omega)]
  rfl

/-- The next state of an instruction that writes a count of its source (O24). -/
def Counted (isCount : Word → Nat → Prop) (rd : Reg) (src next : Word) (s t : State) : Prop :=
  ∃ n : Nat, isCount src n ∧ wroteReg rd (BitVec.ofNat 16 n) s t ∧ t.pc = next ∧
    t.flags.c = s.flags.c ∧ t.flags.v = s.flags.v ∧ t.flags.n = false ∧ (t.flags.z = true ↔ n = 0)

theorem putCount_counted {isCount : Word → Nat → Prop} {src : Word} {n : Nat} (hcount : isCount src n) (hle : n ≤ 16)
    (image : Word) (rd : Reg) (s : State) :
    ∃ t : State, putCount n image rd s = .next t ∧ Counted isCount rd src s.pc s t :=
  ⟨_, rfl, n, hcount, wroteReg_of_eq rfl, rfl, rfl, rfl, rfl, isZero_ofNat hle⟩

/-- An instruction that puts `count` of its source in the destination, given what that count is. -/
theorem signedForms_of_putCount {opcode : BitVec 5} {reg : Cond → Reg → Reg → Instr}
    {short : Cond → Reg → BitVec 3 → Instr} {long : Cond → Reg → Instr} {isCount : Word → Nat → Prop}
    {count : Word → Nat} {image : Word → Word} (he : Encodings opcode 0b100#3 reg short long)
    (hm : Meanings reg short long shortSigned fun rd src => putCount (count src) (image src) rd)
    (hcount : ∀ src : Word, isCount src (count src)) (hle : ∀ src : Word, count src ≤ 16) :
    signedForms opcode reg short long (Counted isCount) :=
  signedForms_of_meanings he hm (fun rd src s => putCount_counted (hcount src) (hle src) (image src) rd s)
    fun _ _ _ _ _ _ _ _ h => h

/-- Settles O24: the counts that the three instructions put are those of the bits of the source. -/
theorem countResults : Obligations.CountResults :=
  ⟨signedForms_of_putCount (isCount := IsLeadingZeros) (count := leadingZeros)
      (image := fun src => ~~~(floodDown src)) ⟨fun _ _ _ => rfl, fun _ _ _ => rfl, fun _ _ => rfl⟩
      ⟨fun _ _ _ _ => rfl, fun _ _ _ _ => rfl, fun _ _ _ => rfl⟩
      isLeadingZeros_leadingZeros fun src => (isLeadingZeros_leadingZeros src).1,
    signedForms_of_putCount (isCount := IsTrailingZeros) (count := trailingZeros)
      (image := fun src => ~~~(floodDown (reverseBits src))) ⟨fun _ _ _ => rfl, fun _ _ _ => rfl, fun _ _ => rfl⟩
      ⟨fun _ _ _ _ => rfl, fun _ _ _ _ => rfl, fun _ _ _ => rfl⟩
      isTrailingZeros_trailingZeros fun src => (isTrailingZeros_trailingZeros src).1,
    signedForms_of_putCount (isCount := fun src n => n = (List.range 16).countP fun j => src.getLsbD j)
      (count := onesCount) (image := id) ⟨fun _ _ _ => rfl, fun _ _ _ => rfl, fun _ _ => rfl⟩
      ⟨fun _ _ _ _ => rfl, fun _ _ _ _ => rfl, fun _ _ _ => rfl⟩ onesCount_eq_countP onesCount_le⟩

end Sys2Proof.CountLaws
end

section
/-! Logic: the result bit by bit, flags and frame of AND, OR, XOR and NOT (O25).

All four put a bitwise result in the destination and the flags of `keepingCV` beside it
(`wroteBitwise_of_wroteReg`). The listings of NOT leave A and B differently from form to form, so its forms are taken
one by one; what they share is `complement`. -/

namespace Sys2Proof.LogicLaws

open Sys2Proof Sys2Proof.Machine Sys2Proof.Microcode Sys2Proof.LoadLaws Sys2Proof.ArithmeticLaws

/-! ## The next state of a bitwise instruction -/

/-- Each bit of `result` is `op` of the bits of `x` and `y` in its place. -/
def IsBitwise (op : Bool → Bool → Bool) (x y result : Word) : Prop :=
  ∀ j < 16, result.getLsbD j = op (x.getLsbD j) (y.getLsbD j)

/-- The next state of an instruction that combines destination and source bit by bit (O25). -/
def WroteBitwise (op : Bool → Bool → Bool) (rd : Reg) (src next : Word) (s t : State) : Prop :=
  ∃ result : Word, IsBitwise op (readReg rd s) src result ∧
    wroteReg rd result s t ∧ t.pc = next ∧
    t.flags.c = s.flags.c ∧ t.flags.v = s.flags.v ∧ signAndZero result t.flags

section
variable {op : Bool → Bool → Bool} {rd : Reg} {src next result : Word} {s t : State}

theorem wroteBitwise_of_wroteReg (hbits : IsBitwise op (readReg rd s) src result) (hreg : wroteReg rd result s t)
    (hpc : t.pc = next) (hflags : t.flags = (keepingCV result s.flags).flags) : WroteBitwise op rd src next s t := by
  refine ⟨result, hbits, hreg, hpc, ?_⟩
  rw [hflags]
  exact ⟨rfl, rfl, signAndZero_of_eq rfl rfl⟩

end

/-! ## AND, OR, XOR -/

/-- An instruction that works on its two operands with a bitwise ALU operation. -/
theorem signedForms_of_bitwise {op : Bool → Bool → Bool} {combine : Word → Word → Word} {opcode : BitVec 5}
    {reg : Cond → Reg → Reg → Instr} {short : Cond → Reg → BitVec 3 → Instr} {long : Cond → Reg → Instr}
    (he : Encodings opcode 0b100#3 reg short long)
    (hm : Meanings reg short long shortSigned (twoOperand fun x y => keepingCV (combine x y)))
    (hbits : ∀ x y : Word, IsBitwise op x y (combine x y)) :
    signedForms opcode reg short long (WroteBitwise op) :=
  signedForms_of_meanings he hm
    (fun rd src s => ⟨_, twoOperand_eq _ rd src s,
      wroteBitwise_of_wroteReg (hbits (readReg rd s) src) (wroteReg_of_eq rfl) rfl rfl⟩)
    fun _ _ _ _ _ _ _ _ h => h

theorem isBitwise_and (x y : Word) : IsBitwise (fun a b => a && b) x y (x &&& y) := fun _ _ => BitVec.getLsbD_and

theorem isBitwise_or (x y : Word) : IsBitwise (fun a b => a || b) x y (x ||| y) := fun _ _ => BitVec.getLsbD_or

theorem isBitwise_xor (x y : Word) : IsBitwise (fun a b => a != b) x y (x ^^^ y) := fun _ _ => BitVec.getLsbD_xor

/-! ## NOT -/

/-- The old value `x` of the destination does not enter (R163). -/
theorem isBitwise_not (x y : Word) : IsBitwise (fun _ b => !b) x y (~~~y) := by
  intro j hj
  rw [BitVec.getLsbD_not, decide_eq_true hj, Bool.true_and]

/-- A state that `complement` leaves, but for pc, A and B. -/
theorem wroteBitwise_complement {rd : Reg} {src : Word} {s t : State}
    (h : t = { complement rd src s with pc := t.pc, hid := { s.hid with a := t.hid.a, b := t.hid.b } }) :
    WroteBitwise (fun _ b => !b) rd src t.pc s t := by
  refine wroteBitwise_of_wroteReg (isBitwise_not (readReg rd s) src) ?_ rfl (congrArg State.flags h)
  rw [h]
  exact wroteReg_of_eq rfl

theorem signedForms_not : signedForms 0b10011#5 .notReg .notShort .notLong (WroteBitwise fun _ b => !b) := by
  refine ⟨⟨fun cond rd rs => ⟨rfl, fun s hc => ?reg⟩, fun cond rd imm _ => ⟨rfl, fun s hc => ?short⟩⟩,
    longForm_of_readWord (fun _ _ => rfl) fun cond rd s imm hc himm => ?long⟩
  case reg =>
    rw [exec_notReg, execNotReg, conditionally_holds _ _ _ _ hc]
    exact ⟨_, rfl, wroteBitwise_complement rfl⟩
  case short =>
    rw [exec_notShort, execNotShort, conditionally_holds _ _ _ _ hc]
    exact ⟨_, rfl, wroteBitwise_complement rfl⟩
  case long =>
    rw [exec_notLong, execNotLong, conditionally_holds _ _ _ _ hc, withLong_next s _ imm himm]
    exact ⟨_, rfl, wroteBitwise_complement rfl⟩

/-- Settles O25: the ALU operations of AND, OR and XOR, and the complement of NOT, are bitwise and keep C and V. -/
theorem logicResults : Obligations.LogicResults :=
  ⟨signedForms_of_bitwise (combine := fun x y => x &&& y) ⟨fun _ _ _ => rfl, fun _ _ _ => rfl, fun _ _ => rfl⟩
      ⟨fun _ _ _ _ => rfl, fun _ _ _ _ => rfl, fun _ _ _ => rfl⟩ isBitwise_and,
    signedForms_of_bitwise (combine := fun x y => x ||| y) ⟨fun _ _ _ => rfl, fun _ _ _ => rfl, fun _ _ => rfl⟩
      ⟨fun _ _ _ _ => rfl, fun _ _ _ _ => rfl, fun _ _ _ => rfl⟩ isBitwise_or,
    signedForms_of_bitwise (combine := fun x y => x ^^^ y) ⟨fun _ _ _ => rfl, fun _ _ _ => rfl, fun _ _ => rfl⟩
      ⟨fun _ _ _ _ => rfl, fun _ _ _ _ => rfl, fun _ _ _ => rfl⟩ isBitwise_xor,
    signedForms_not⟩

end Sys2Proof.LogicLaws
end

section
/-! Rotations and shifts by any count: LSL, LSR and ASR (O26), ROL and ROR (O27), RLC and RRC (O28).

All seven put what the ALU makes of the destination and the count in the destination, so a statement about one of them
follows from one about its ALU operation (`countForms_of_twoOperand`). The bits that a shift moves out are a quotient or
a remainder of the destination; the rotates are the library's, RLC and RRC on the ring of seventeen bits. -/

namespace Sys2Proof.ShiftLaws

open Sys2Proof Sys2Proof.Machine Sys2Proof.Microcode Sys2Proof.LoadLaws Sys2Proof.ArithmeticLaws

/-! ## From the ALU operation to the three forms -/

section
variable {alu : Word → Word → Flags → AluOut} {opcode : BitVec 5} {reg : Cond → Reg → Reg → Instr}
  {short : Cond → Reg → BitVec 3 → Instr} {long : Cond → Reg → Instr}

/-- A statement about the three forms, from what it asks of a state that holds the value and the flags of `alu`. -/
theorem countForms_of_twoOperand {after : Reg → Word → Word → State → State → Prop}
    (he : Encodings opcode 0b000#3 reg short long) (hm : Meanings reg short long shortUnsigned (twoOperand alu))
    (hafter : ∀ (rd : Reg) (count next : Word) (s t : State),
      wroteReg rd (alu (readReg rd s) count s.flags).value s t → t.pc = next →
      t.flags = (alu (readReg rd s) count s.flags).flags → after rd count next s t)
    (hblind : BlindToImmediate after) : countForms opcode reg short long after := by
  have h : Achieves (twoOperand alu) after := fun rd count s =>
    ⟨_, twoOperand_eq alu rd count s, hafter rd count s.pc s _ (wroteReg_of_eq rfl) rfl rfl⟩
  exact ⟨shortForms_of_meanings he hm h, longForm_of_meanings he hm h hblind⟩

/-- The next state of a shift (O26): `out j n` says that a shift by `n` moves bit `j` out. -/
def Shifted (isResult : Word → Nat → Word → Prop) (out : Nat → Nat → Prop) (rd : Reg) (count next : Word)
    (s t : State) : Prop :=
  ∃ result : Word, isResult (readReg rd s) count.toNat result ∧ wroteReg rd result s t ∧ t.pc = next ∧
    (t.flags.c = true ↔ ∃ j < 16, out j count.toNat ∧ (readReg rd s).getLsbD j = true) ∧
    t.flags.v = false ∧ signAndZero result t.flags

theorem countForms_of_shift {isResult : Word → Nat → Word → Prop} {out : Nat → Nat → Prop}
    {shift : Word → Nat → Word} {shiftedOut : Word → Nat → Nat} (he : Encodings opcode 0b000#3 reg short long)
    (hm : Meanings reg short long shortUnsigned
      (twoOperand fun d count _ => clearingV (shift d count.toNat) (decide (shiftedOut d count.toNat ≠ 0))))
    (hresult : ∀ (d : Word) (n : Nat), isResult d n (shift d n))
    (hout : ∀ (d : Word) (n : Nat), shiftedOut d n ≠ 0 ↔ ∃ j < 16, out j n ∧ d.getLsbD j = true) :
    countForms opcode reg short long (Shifted isResult out) := by
  refine countForms_of_twoOperand he hm (fun rd count next s t hreg hpc hflags => ?_) fun _ _ _ _ _ _ _ _ h => h
  refine ⟨_, hresult (readReg rd s) count.toNat, hreg, hpc, ?_⟩
  rw [hflags]
  exact ⟨decide_eq_true_iff.trans (hout (readReg rd s) count.toNat), rfl, signAndZero_of_eq rfl rfl⟩

/-- The next state of a rotate of the register alone (O27). -/
def Rotated (isResult : Word → Nat → Word → Prop) (rd : Reg) (count next : Word) (s t : State) : Prop :=
  ∃ result : Word, isResult (readReg rd s) count.toNat result ∧ wroteReg rd result s t ∧ t.pc = next ∧
    t.flags.c = false ∧ t.flags.v = false ∧ signAndZero result t.flags

theorem countForms_of_rotate {isResult : Word → Nat → Word → Prop} {rotate : Word → Nat → Word}
    (he : Encodings opcode 0b000#3 reg short long)
    (hm : Meanings reg short long shortUnsigned
      (twoOperand fun d count _ => clearingV (rotate d count.toNat) false))
    (hresult : ∀ (d : Word) (n : Nat), isResult d n (rotate d n)) :
    countForms opcode reg short long (Rotated isResult) := by
  refine countForms_of_twoOperand he hm (fun rd count next s t hreg hpc hflags => ?_) fun _ _ _ _ _ _ _ _ h => h
  refine ⟨_, hresult (readReg rd s) count.toNat, hreg, hpc, ?_⟩
  rw [hflags]
  exact ⟨rfl, rfl, signAndZero_of_eq rfl rfl⟩

/-- Bit `j` of the ring of the carry flag above the register (R180). -/
def ringBit (carry : Bool) (d : Word) (j : Nat) : Bool := if j = 16 then carry else d.getLsbD j

theorem ringBit_eq_getLsbD_ring (carry : Bool) (d : Word) : ringBit carry d = (ring carry d).getLsbD :=
  funext fun j => (BitVec.getLsbD_cons carry d j).symm

/-- The next state of a rotate through carry (O28). -/
def RotatedThroughCarry (isResult : (Nat → Bool) → Nat → (Nat → Bool) → Prop) (rd : Reg) (count next : Word)
    (s t : State) : Prop :=
  ∃ result : Word, isResult (ringBit s.flags.c (readReg rd s)) count.toNat (ringBit t.flags.c result) ∧
    wroteReg rd result s t ∧ t.pc = next ∧ t.flags.v = false ∧ signAndZero result t.flags

/-- The ring that the rotate leaves is the result with the new C flag above it. -/
theorem countForms_of_ringRotate {isResult : (Nat → Bool) → Nat → (Nat → Bool) → Prop}
    {rotate : BitVec 17 → Nat → BitVec 17} (he : Encodings opcode 0b000#3 reg short long)
    (hm : Meanings reg short long shortUnsigned (twoOperand fun d count f =>
      clearingV ((rotate (ring f.c d) count.toNat).setWidth 16) (rotate (ring f.c d) count.toNat).msb))
    (hresult : ∀ (x : BitVec 17) (n : Nat), isResult x.getLsbD n (rotate x n).getLsbD) :
    countForms opcode reg short long (RotatedThroughCarry isResult) := by
  refine countForms_of_twoOperand he hm (fun rd count next s t hreg hpc hflags => ?_) fun _ _ _ _ _ _ _ _ h => h
  refine ⟨_, ?_, hreg, hpc, ?_⟩ <;> rw [hflags]
  · rw [ringBit_eq_getLsbD_ring, ringBit_eq_getLsbD_ring]
    have hring := BitVec.cons_msb_setWidth (rotate (ring s.flags.c (readReg rd s)) count.toNat)
    have hrotated := hresult (ring s.flags.c (readReg rd s)) count.toNat
    rwa [← hring] at hrotated
  · exact ⟨rfl, signAndZero_of_eq rfl rfl⟩

end

/-! ## The bits that a shift moves out -/

theorem ne_zero_iff_exists_testBit (m : Nat) : m ≠ 0 ↔ ∃ i, m.testBit i = true := by
  refine ⟨Nat.exists_testBit_of_ne_zero, ?_⟩
  rintro ⟨i, hbit⟩ rfl
  simp at hbit

/-- The bits moved out to the left are those from `16 - min n 16` up, moved down to 0. -/
theorem outLeft_ne_zero (d : Word) (n : Nat) :
    outLeft d n ≠ 0 ↔ ∃ j < 16, 16 - min n 16 ≤ j ∧ d.getLsbD j = true := by
  rw [ne_zero_iff_exists_testBit, outLeft]
  simp only [Nat.testBit_div_two_pow]
  constructor
  · rintro ⟨i, hbit⟩
    exact ⟨i + (16 - min n 16), BitVec.lt_of_getLsbD hbit, Nat.le_add_left .., hbit⟩
  · rintro ⟨j, -, hout, hbit⟩
    exact ⟨j - (16 - min n 16), by rwa [Nat.sub_add_cancel hout]⟩

theorem outRight_ne_zero (d : Word) (n : Nat) :
    outRight d n ≠ 0 ↔ ∃ j < 16, j < min n 16 ∧ d.getLsbD j = true := by
  rw [ne_zero_iff_exists_testBit, outRight]
  simp only [Nat.testBit_mod_two_pow, Bool.and_eq_true, decide_eq_true_iff]
  exact ⟨fun ⟨j, hout, hbit⟩ => ⟨j, BitVec.lt_of_getLsbD hbit, hout, hbit⟩, fun ⟨j, _, hj⟩ => ⟨j, hj⟩⟩

/-! ## The results as arithmetic -/

theorem toNat_shiftLeft_eq (d : Word) (n : Nat) : (d <<< n).toNat = d.toNat * 2 ^ n % 2 ^ 16 := by
  rw [BitVec.toNat_shiftLeft, Nat.shiftLeft_eq]

theorem toNat_ushiftRight_eq (d : Word) (n : Nat) : (d >>> n).toNat = d.toNat / 2 ^ n := by
  rw [BitVec.toNat_ushiftRight, Nat.shiftRight_eq_div_pow]

theorem toInt_sshiftRight_eq (d : Word) (n : Nat) : (d.sshiftRight n).toInt = d.toInt / 2 ^ n := by
  rw [BitVec.toInt_sshiftRight, Int.shiftRight_eq_div_pow, Nat.cast_pow, Nat.cast_ofNat]

/-- Settles O26: value and carry of the three ALU operations, each for every count. -/
theorem shiftResults : Obligations.ShiftResults :=
  ⟨countForms_of_shift (isResult := fun d n r => r.toNat = d.toNat * 2 ^ n % 2 ^ 16)
      (out := fun j n => 16 - min n 16 ≤ j) (shift := fun d n => d <<< n) (shiftedOut := outLeft)
      ⟨fun _ _ _ => rfl, fun _ _ _ => rfl, fun _ _ => rfl⟩
      ⟨fun _ _ _ _ => rfl, fun _ _ _ _ => rfl, fun _ _ _ => rfl⟩ toNat_shiftLeft_eq outLeft_ne_zero,
    countForms_of_shift (isResult := fun d n r => r.toNat = d.toNat / 2 ^ n)
      (out := fun j n => j < min n 16) (shift := fun d n => d >>> n) (shiftedOut := outRight)
      ⟨fun _ _ _ => rfl, fun _ _ _ => rfl, fun _ _ => rfl⟩
      ⟨fun _ _ _ _ => rfl, fun _ _ _ _ => rfl, fun _ _ _ => rfl⟩ toNat_ushiftRight_eq outRight_ne_zero,
    countForms_of_shift (isResult := fun d n r => r.toInt = d.toInt / 2 ^ n)
      (out := fun j n => j < min n 16) (shift := BitVec.sshiftRight) (shiftedOut := outRight)
      ⟨fun _ _ _ => rfl, fun _ _ _ => rfl, fun _ _ => rfl⟩
      ⟨fun _ _ _ _ => rfl, fun _ _ _ _ => rfl, fun _ _ _ => rfl⟩ toInt_sshiftRight_eq outRight_ne_zero⟩

/-! ## The rotates by the bits -/

section
variable {w : Nat} (x : BitVec w) (n : Nat)

/-- A bit goes up by the count, or past the top and back in at the bottom. -/
theorem getLsbD_rotateLeft_add_mod {j : Nat} (hj : j < w) :
    (x.rotateLeft n).getLsbD ((j + n) % w) = x.getLsbD j := by
  have hk : n % w < w := Nat.mod_lt n (by omega)
  rw [BitVec.getLsbD_rotateLeft, Nat.add_mod_eq_ite, Nat.mod_eq_of_lt hj]
  split
  next hwraps =>
    rw [decide_eq_true (by omega), cond_true]
    congr 1
    omega
  next hstays =>
    rw [decide_eq_false (by omega), cond_false, decide_eq_true (by omega), Bool.true_and, Nat.add_sub_cancel]

/-- A bit comes from above by the count, or from the bottom when that is past the top. -/
theorem getLsbD_rotateRight_add_mod {j : Nat} (hj : j < w) :
    (x.rotateRight n).getLsbD j = x.getLsbD ((j + n) % w) := by
  have hk : n % w < w := Nat.mod_lt n (by omega)
  rw [BitVec.getLsbD_rotateRight, Nat.add_mod_eq_ite, Nat.mod_eq_of_lt hj]
  split
  next hwraps =>
    rw [decide_eq_false (by omega), cond_false, decide_eq_true hj, Bool.true_and]
    congr 1
    omega
  next hstays => rw [decide_eq_true (by omega), cond_true, Nat.add_comm]

end

/-- Settles O27: the two ALU operations are rotations of a word of sixteen bits. -/
theorem rotateResults : Obligations.RotateResults :=
  ⟨countForms_of_rotate (rotate := BitVec.rotateLeft)
      (isResult := fun d n r => ∀ j < 16, r.getLsbD ((j + n) % 16) = d.getLsbD j)
      ⟨fun _ _ _ => rfl, fun _ _ _ => rfl, fun _ _ => rfl⟩
      ⟨fun _ _ _ _ => rfl, fun _ _ _ _ => rfl, fun _ _ _ => rfl⟩ fun d n _ => getLsbD_rotateLeft_add_mod d n,
    countForms_of_rotate (rotate := BitVec.rotateRight)
      (isResult := fun d n r => ∀ j < 16, r.getLsbD j = d.getLsbD ((j + n) % 16))
      ⟨fun _ _ _ => rfl, fun _ _ _ => rfl, fun _ _ => rfl⟩
      ⟨fun _ _ _ _ => rfl, fun _ _ _ _ => rfl, fun _ _ _ => rfl⟩ fun d n _ => getLsbD_rotateRight_add_mod d n⟩

/-- Settles O28: the two ALU operations are the same rotations, of the ring of seventeen bits. -/
theorem rotateThroughCarryResults : Obligations.RotateThroughCarryResults :=
  ⟨countForms_of_ringRotate (rotate := BitVec.rotateLeft)
      (isResult := fun x n x' => ∀ j < 17, x' ((j + n) % 17) = x j)
      ⟨fun _ _ _ => rfl, fun _ _ _ => rfl, fun _ _ => rfl⟩
      ⟨fun _ _ _ _ => rfl, fun _ _ _ _ => rfl, fun _ _ _ => rfl⟩ fun x n _ => getLsbD_rotateLeft_add_mod x n,
    countForms_of_ringRotate (rotate := BitVec.rotateRight)
      (isResult := fun x n x' => ∀ j < 17, x' j = x ((j + n) % 17))
      ⟨fun _ _ _ => rfl, fun _ _ _ => rfl, fun _ _ => rfl⟩
      ⟨fun _ _ _ _ => rfl, fun _ _ _ _ => rfl, fun _ _ _ => rfl⟩ fun x n _ => getLsbD_rotateRight_add_mod x n⟩

end Sys2Proof.ShiftLaws
end

section
/-! The stack: what PUSH (O29) and POP (O30) do, and that POP takes off what PUSH put on (O31).

A push that completes is `MemoryLaws.pushed`; a pop that completes is named here, `popped`. That one undoes the other is
`topWord_pushed`, the word on top of the stack after a push, and that SP comes back (`readReg_sp_popped`). -/

namespace Sys2Proof.StackLaws

open Sys2Proof Sys2Proof.Machine Sys2Proof.MemoryLaws

/-! ## PUSH -/

theorem exec_push_next {cond : Cond} {s : State} (rs : Reg) (hc : condHolds cond s.flags = true) (h : Pushable s) :
    exec (.push cond rs) s = .next (pushed (readReg rs s) s) := by
  rw [exec_push_holds rs hc, pushWord_of_pushable h]

/-- Settles O29: the state that the push of `rs` leaves, by the laws of `pushed`. -/
theorem pushResult : Obligations.PushResult := by
  refine fun cond rs s hc => ⟨rfl, fun h1 h2 => ?_⟩
  have hpush : Pushable s := ⟨h1, h2⟩
  exact ⟨_, exec_push_next rs hc hpush, readByte_pushed_high hpush _, readByte_pushed_low hpush _,
    sameMemoryExcept_pushed hpush _, readReg_sp_pushed _ s, sameRegsExcept_pushed _ s, rfl, rfl, sameBeyond_pushed _ s⟩

/-! ## The advance of SP -/

theorem readReg_sp_dropWord (s : State) : readReg .sp (dropWord s) = readReg .sp s + 2#16 := by
  rw [dropWord_eq, readReg_setAB, readReg_writeReg_same]

theorem readReg_dropWord_other {r : Reg} (s : State) (hr : r ≠ .sp) : readReg r (dropWord s) = readReg r s := by
  rw [dropWord_eq, readReg_setAB, readReg_writeReg_other _ _ _ _ hr]

/-! ## A pop that completes -/

/-- The state a pop of the word `v` into `rd` leaves: `rd` is written before SP is read and advanced (C10). -/
def popped (rd : Reg) (v : Word) (s : State) : State := dropWord (writeReg rd v s)

theorem exec_pop_next {cond : Cond} {s : State} {v : Word} (rd : Reg) (hc : condHolds cond s.flags = true)
    (h : topWord s = .next v) : exec (.pop cond rd) s = .next (popped rd v s) := by
  rw [exec_pop, execPop, conditionally_holds _ _ _ _ hc, h, andThen_next, popped]

section
variable {rd : Reg} (v : Word) (s : State)

theorem readReg_popped (hrd : rd ≠ .sp) : readReg rd (popped rd v s) = v := by
  rw [popped, readReg_dropWord_other _ hrd, readReg_writeReg_same]

theorem readReg_sp_popped (hrd : rd ≠ .sp) : readReg .sp (popped rd v s) = readReg .sp s + 2#16 := by
  rw [popped, readReg_sp_dropWord, readReg_writeReg_other _ _ _ _ hrd.symm]

theorem readReg_sp_popped_sp : readReg .sp (popped .sp v s) = v + 2#16 := by
  rw [popped, readReg_sp_dropWord, readReg_writeReg_same]

theorem sameRegsExcept_popped : sameRegsExcept [rd, .sp] s (popped rd v s) := by
  intro r hr
  obtain ⟨hne, hsp⟩ : r ≠ rd ∧ r ≠ .sp := by simpa using hr
  rw [popped, readReg_dropWord_other _ hsp, readReg_writeReg_other _ _ _ _ hne]

theorem sameMemory_popped : sameMemory s (popped rd v s) := sameMemory_of_mem_eq rfl rfl

theorem sameBeyond_popped : sameBeyond s (popped rd v s) := ⟨rfl, rfl, rfl, rfl, rfl, rfl⟩

end

/-- Settles O30: the two bytes are the word on top of the stack, and what its pop leaves is known by the laws of
`popped`. -/
theorem popResult : Obligations.PopResult := by
  refine fun cond rd s lo hi hc => ⟨rfl, fun hlo hhi => ?_⟩
  have htop : topWord s = .next (immOfBytes lo hi) := (readWord_eq_next _ _ _).2 ⟨lo, hi, hlo, hhi, rfl⟩
  refine ⟨_, exec_pop_next rd hc htop, fun hrd => ⟨readReg_popped _ s hrd, readReg_sp_popped _ s hrd⟩, ?popSp,
    sameRegsExcept_popped _ s, sameMemory_popped _ s, rfl, rfl, sameBeyond_popped _ s⟩
  case popSp =>
    rintro rfl
    exact readReg_sp_popped_sp _ s

/-! ## A push and then a pop -/

theorem topWord_pushed {s : State} (h : Pushable s) (v : Word) : topWord (pushed v s) = .next v := by
  have hnext : readReg .sp s - 2#16 + 1#16 = readReg .sp s - 1#16 := by bv_omega
  rw [topWord, readReg_sp_pushed, readWord_eq_next, hnext]
  exact ⟨lowByte v, highByte v, readByte_pushed_low h v, readByte_pushed_high h v, (immOfBytes_parts v).symm⟩

/-- Settles O31: the pop reads back the pushed word, and its own frame is within that of the two together. -/
theorem pushThenPop : Obligations.PushThenPop := by
  refine fun rs rd s hrd h1 h2 => ?_
  have hpush : Pushable s := ⟨h1, h2⟩
  refine ⟨_, _, exec_push_next rs rfl hpush, exec_pop_next rd rfl (topWord_pushed hpush _),
    readReg_popped _ _ hrd, ?sp, fun r hr => ?regs, rfl, fun a ha => ?memory⟩
  case sp => rw [readReg_sp_popped _ _ hrd, readReg_sp_pushed, BitVec.sub_add_cancel]
  case regs =>
    have hsp : r ∉ [Reg.sp] := fun hmem => hr (List.mem_cons_of_mem rd hmem)
    exact (sameRegsExcept_popped _ _ r hr).trans (sameRegsExcept_pushed _ s r hsp)
  case memory => exact (sameMemory_popped _ _ a).trans (sameMemoryExcept_pushed hpush _ a ha)

end Sys2Proof.StackLaws
end

section
/-! Control flow: what J (O32), CALL in its register form (O33) and RET (O35) do.

A jump changes pc, A and B only (`frame_of_jump`); CALL jumps from the state that its push leaves
(`MemoryLaws.pushed`), and RET changes SP besides (`wroteReg_sp_return`). -/

namespace Sys2Proof.ControlFlowLaws

open Sys2Proof Sys2Proof.Machine Sys2Proof.MemoryLaws Sys2Proof.LoadLaws

section
variable {cond : Cond} {s : State}

/-! ## J -/

theorem exec_jReg_next (rs : Reg) (hc : condHolds cond s.flags = true) :
    exec (.jReg cond rs) s = .next (setPc (readReg rs s) s) := by
  rw [exec_jReg, execJReg, conditionally_holds _ _ _ _ hc]

/-- The jump overwrites the pc, A and B that reading the immediate leaves. -/
theorem exec_jLong_next {imm : Word} (hc : condHolds cond s.flags = true) (himm : readWord s.pc s = .next imm) :
    exec (.jLong cond) s = .next (setAB (lowPart imm) (highPart imm) (setPc imm s)) := by
  rw [exec_jLong, execJLong, conditionally_holds _ _ _ _ hc, withLong_next s _ imm himm]
  rfl

/-- A state that differs in pc, A and B only. -/
theorem frame_of_jump {t : State} (h : t = { s with pc := t.pc, hid := { s.hid with a := t.hid.a, b := t.hid.b } }) :
    t.regs = s.regs ∧ t.flags = s.flags ∧ sameMemory s t ∧ sameBeyond s t := by
  rw [h]
  exact ⟨rfl, rfl, sameMemory_of_mem_eq rfl rfl, rfl, rfl, rfl, rfl, rfl, rfl⟩

/-! ## CALL, register form -/

/-- Every register after a push: SP is 2 less, and the others are as they were. -/
theorem readReg_pushed (r : Reg) (v : Word) (s : State) :
    readReg r (pushed v s) = if r = .sp then readReg .sp s - 2#16 else readReg r s := by
  split_ifs with hr
  · rw [hr, readReg_sp_pushed]
  · exact sameRegsExcept_pushed v s r fun hmem => hr (List.mem_singleton.1 hmem)

/-- The target is read in the state that the push leaves (R201). -/
theorem exec_callReg_next (rs : Reg) (hc : condHolds cond s.flags = true) (h : Pushable s) :
    exec (.callReg cond rs) s = .next (setPc (readReg rs (pushed s.pc s)) (pushed s.pc s)) := by
  rw [exec_callReg_holds rs hc, pushWord_of_pushable h, andThen_next]

/-! ## RET -/

theorem exec_ret_next {w : Word} (hc : condHolds cond s.flags = true) (htop : topWord s = .next w) :
    exec (.ret cond) s = .next (dropWord (setPc w s)) := by
  rw [exec_ret, execRet, conditionally_holds _ _ _ _ hc, returnFrom, htop, andThen_next]

/-- All that a return changes, pc, A and B apart, is SP. -/
theorem wroteReg_sp_return (w : Word) (s : State) :
    wroteReg .sp (readReg .sp s + 2#16) s (dropWord (setPc w s)) := wroteReg_of_eq rfl

end

/-- Settles O33: the state that the push of the return address leaves, by the laws of `pushed`, with pc at what the
target register holds in it. -/
theorem callRegisterResult : Obligations.CallRegisterResult := by
  refine fun cond rs s hc => ⟨rfl, fun h1 h2 => ?_⟩
  have hpush : Pushable s := ⟨h1, h2⟩
  exact ⟨_, exec_callReg_next rs hc hpush, readByte_pushed_high hpush _, readByte_pushed_low hpush _,
    sameMemoryExcept_pushed hpush _, readReg_sp_pushed _ s, sameRegsExcept_pushed _ s, readReg_pushed rs _ s, rfl,
    sameBeyond_pushed _ s⟩

/-- Settles O35: the two bytes are the word on top of the stack, which goes to pc before SP is advanced. -/
theorem retResult : Obligations.RetResult := by
  refine fun cond s lo hi hc => ⟨rfl, fun hlo hhi => ?_⟩
  have htop : topWord s = .next (immOfBytes lo hi) := (readWord_eq_next _ _ _).2 ⟨lo, hi, hlo, hhi, rfl⟩
  obtain ⟨hsp, hregs, hmem, hbeyond⟩ := wroteReg_sp_return (immOfBytes lo hi) s
  exact ⟨_, exec_ret_next hc htop, rfl, hsp, hregs, hmem, rfl, hbeyond⟩

/-- Settles O32: J writes pc and, in the long form, A and B; the two bytes at pc are one word read. -/
theorem jumpResult : Obligations.JumpResult := by
  refine fun cond s hc => ⟨fun rs => ⟨rfl, ?reg⟩, rfl, fun lo hi hlo hhi => ?long⟩
  case reg => exact ⟨_, exec_jReg_next rs hc, rfl, frame_of_jump rfl⟩
  case long =>
    have himm : readWord s.pc s = .next (immOfBytes lo hi) := (readWord_eq_next _ _ _).2 ⟨lo, hi, hlo, hhi, rfl⟩
    exact ⟨_, exec_jLong_next hc himm, rfl, frame_of_jump rfl⟩

end Sys2Proof.ControlFlowLaws
end

section
/-! What the parts of a step may do to memory and where they may stop (O46, O47), and that a write is seen by the next
read (O51).

One case split over the instructions, `confined_body`, says of each, whatever its outcome, that it changes RAM alone and
stops only where an access has no meaning (`Confined`). It is built from one lemma for each shape of a meaning, as in
`StepLaws`, and both statements are read off it. -/

namespace Sys2Proof.AccessLaws

open Sys2Proof Sys2Proof.Machine

/-- Settles O51: a write that completes has put the byte into RAM. -/
theorem readAfterWrite : Obligations.ReadAfterWrite := by
  intro a b v s t h
  obtain ⟨hram, rfl⟩ := (writeByte_eq_next a v s t).1 h
  split_ifs with hb
  · rw [hb, readByte_storeByte_same a v s hram]
  · exact readByte_storeByte_other a b v s hb

/-! ## What a part of a step may do to memory -/

/-- The map is as it was, a byte outside RAM is as it was, and no byte has lost its value. -/
structure KeepsBytes (s t : State) : Prop where
  kinds : ∀ a : Word, kindAt t a = kindAt s a
  outsideRam : ∀ a : Word, kindAt s a ≠ .ram → byteAt t a = byteAt s a
  held : ∀ a : Word, byteAt t a = none → byteAt s a = none

theorem KeepsBytes.trans {s t u : State} (h : KeepsBytes s t) (h' : KeepsBytes t u) : KeepsBytes s u where
  kinds a := (h'.kinds a).trans (h.kinds a)
  outsideRam a ha := (h'.outsideRam a (by rwa [h.kinds a])).trans (h.outsideRam a ha)
  held a ha := h.held a (h'.held a ha)

/-- Of the state, only the memory list and the parameters matter. -/
theorem keepsBytes_of_eq {s t : State} (hmem : t.mem = s.mem) (hplatform : t.platform = s.platform) :
    KeepsBytes s t := by
  have hbyte : ∀ a : Word, byteAt t a = byteAt s a := fun a => by rw [byteAt, byteAt, hmem]
  exact ⟨fun a => by rw [kindAt, kindAt, hplatform], fun a _ => hbyte a, fun a ha => hbyte a ▸ ha⟩

theorem keepsBytes_storeByte {a : Word} (v : Byte) {s : State} (hram : kindAt s a = .ram) :
    KeepsBytes s (storeByte a v s) where
  kinds _ := rfl
  outsideRam b hb := byteAt_storeByte_other a b v s fun hne => hb (hne ▸ hram)
  held b hb := by
    by_cases hne : b = a
    · rw [hne, byteAt_storeByte_same] at hb
      cases hb
    · rwa [byteAt_storeByte_other a b v s hne] at hb

/-- The two stops that the spec leaves to a memory access (R58). -/
def Justified (s : State) (f : Fault) : Prop :=
  match f with
  | .badAccess a => kindAt s a ≠ .ram
  | .uninitialised a => kindAt s a ≠ .absent ∧ byteAt s a = none

/-- A stop that has its reason after a part of a step had it before. -/
theorem KeepsBytes.justified {s t : State} (h : KeepsBytes s t) {f : Fault} (hf : Justified t f) : Justified s f := by
  cases f with
  | badAccess a => exact fun hram => hf ((h.kinds a).trans hram)
  | uninitialised a => exact ⟨h.kinds a ▸ hf.1, h.held a hf.2⟩

/-- An outcome, reached from `s`, that has changed RAM alone, or stopped for a reason. -/
def Confined (s : State) (r : Result State) : Prop :=
  match r with
  | .next t => KeepsBytes s t
  | .fault f => Justified s f
  | .refused _ => True

/-! ## The shapes of a meaning -/

/-- What is confined from a later state is confined from an earlier one. -/
theorem Confined.after {s t : State} {r : Result State} (hr : Confined t r) (h : KeepsBytes s t) : Confined s r := by
  cases r with
  | next u => exact h.trans hr
  | fault f => exact h.justified hr
  | refused _ => trivial

theorem Confined.andThen {s : State} {r : Result State} {k : State → Result State} (hr : Confined s r)
    (hk : ∀ t : State, Confined t (k t)) : Confined s (andThen r k) := by
  cases r with
  | next t => exact (hk t).after hr
  | fault f => exact hr
  | refused _ => trivial

theorem Confined.next {s t : State} (hmem : t.mem = s.mem) (hplatform : t.platform = s.platform) :
    Confined s (.next t) :=
  keepsBytes_of_eq hmem hplatform

/-- A read that completes or stops for a reason; what it reads is no state. -/
theorem Confined.read {α : Type} {s : State} {r : Result α} {k : α → Result State}
    (hr : ∀ f : Fault, r = .fault f → Justified s f) (hk : ∀ x : α, Confined s (k x)) :
    Confined s (Machine.andThen r k) := by
  cases r with
  | next x => exact hk x
  | fault f => exact hr f rfl
  | refused _ => trivial

section
variable {s : State} {f : Fault}

theorem justified_of_readByte {a : Word} (h : readByte a s = .fault f) : Justified s f := by
  rcases (readByte_eq_fault a s f).1 h with ⟨habsent, rfl⟩ | ⟨hpresent, hnone, rfl⟩
  · exact fun hram => by rw [habsent] at hram; cases hram
  · exact ⟨hpresent, hnone⟩

theorem justified_of_readWord {a : Word} (h : readWord a s = .fault f) : Justified s f := by
  rcases (readWord_eq_fault a s f).1 h with h | ⟨_, -, h⟩ <;> exact justified_of_readByte h

theorem Confined.readWord {a : Word} {k : Word → Result State} (hk : ∀ v : Word, Confined s (k v)) :
    Confined s (Machine.andThen (readWord a s) k) :=
  .read (fun _ => justified_of_readWord) hk

theorem Confined.readByte {a : Word} {k : Byte → Result State} (hk : ∀ v : Byte, Confined s (k v)) :
    Confined s (Machine.andThen (readByte a s) k) :=
  .read (fun _ => justified_of_readByte) hk

theorem Confined.withLong {k : Word → State → Result State} (hk : ∀ (imm : Word) (t : State), Confined t (k imm t)) :
    Confined s (withLong s k) :=
  .readWord fun imm => (hk imm _).after (keepsBytes_of_eq rfl rfl)

theorem Confined.withLongLowByte {k : Byte → State → Result State}
    (hk : ∀ (lo : Byte) (t : State), Confined t (k lo t)) : Confined s (withLongLowByte s k) :=
  .readByte fun lo => (hk lo _).after (keepsBytes_of_eq rfl rfl)

theorem confined_writeByte (a : Word) (v : Byte) (s : State) : Confined s (writeByte a v s) := by
  by_cases hram : kindAt s a = .ram
  · rw [writeByte_ram a v s hram]
    exact keepsBytes_storeByte v hram
  · rw [writeByte_not_ram a v s hram]
    exact hram

theorem confined_storeWord (a v : Word) (s : State) : Confined s (storeWord a v s) :=
  (confined_writeByte ..).andThen fun _ => confined_writeByte ..

theorem confined_pushWord (v : Word) (s : State) : Confined s (pushWord v s) :=
  (confined_writeByte ..).andThen fun _ => (confined_writeByte ..).andThen fun _ => .next rfl rfl

theorem Confined.conditionally {cond : Cond} {form : Form} {body : State → Result State}
    (h : Confined s (body s)) : Confined s (conditionally cond form s body) := by
  rw [Machine.conditionally]
  split_ifs
  · exact h
  · obtain ⟨-, -, -, hmem, hplatform, -⟩ := passOver_frame form s
    exact .next hmem hplatform

end

/-! ## Every instruction and every step -/

/-- The meaning of an instruction that is not a reserved form is confined in every state. -/
theorem confined_body (i : Instr) (h : i.isReserved = false) :
    ∃ body : State → Result State,
      (∀ s : State, exec i s = conditionally i.cond (formOf i) s body) ∧ ∀ s : State, Confined s (body s) := by
  cases i with
  | ldiReserved | xcgReserved | flgReserved | pushReserved | popReserved | jReserved | callReserved | retReserved =>
    cases h
  -- no access to memory
  | ldReg | ldShort | negReg | negShort | sexReg | sexShort | offsReg | offsShort | cmpReg | cmpShort | xcg
  | clzReg | clzShort | ctzReg | ctzShort | cbsReg | cbsShort | flgReg | jReg | andReg | andShort | orReg | orShort
  | xorReg | xorShort | notReg | notShort | addReg | addShort | adcReg | adcShort | subReg | subShort | sbcReg
  | sbcShort | rorReg | rorShort | rolReg | rolShort | rrcReg | rrcShort | rlcReg | rlcShort | lsrReg | lsrShort
  | lslReg | lslShort | asrReg | asrShort =>
    exact ⟨_, fun _ => rfl, fun _ => .next rfl rfl⟩
  -- the immediate is read
  | ldLong | negLong | offsLong | cmpLong | clzLong | ctzLong | cbsLong | jLong | andLong | orLong | xorLong
  | notLong | addLong | adcLong | subLong | sbcLong | rorLong | rolLong | rrcLong | rlcLong | lsrLong | lslLong
  | asrLong =>
    exact ⟨_, fun _ => rfl, fun _ => .withLong fun _ _ => .next rfl rfl⟩
  | sexLong | flgLong => exact ⟨_, fun _ => rfl, fun _ => .withLongLowByte fun _ _ => .next rfl rfl⟩
  -- a word is read at a register, or at the immediate
  | ldiReg | pop | ret => exact ⟨_, fun _ => rfl, fun _ => .readWord fun _ => .next rfl rfl⟩
  | ldiLong => exact ⟨_, fun _ => rfl, fun _ => .withLong fun _ _ => .readWord fun _ => .next rfl rfl⟩
  -- stores and pushes
  | stiByte => exact ⟨_, fun _ => rfl, fun _ => (confined_writeByte ..).andThen fun _ => .next rfl rfl⟩
  | stiWord => exact ⟨_, fun _ => rfl, fun _ => (confined_storeWord ..).andThen fun _ => .next rfl rfl⟩
  | push => exact ⟨_, fun _ => rfl, fun _ => confined_pushWord ..⟩
  | callReg => exact ⟨_, fun _ => rfl, fun _ => (confined_pushWord ..).andThen fun _ => .next rfl rfl⟩
  | callLong =>
    exact ⟨_, fun _ => rfl, fun _ => (confined_pushWord ..).andThen fun _ => .readWord fun _ => .next rfl rfl⟩

theorem confined_exec (i : Instr) (s : State) : Confined s (exec i s) := by
  cases hr : i.isReserved with
  | true =>
    rw [exec_reserved i s hr]
    exact trivial
  | false =>
    obtain ⟨body, hexec, hbody⟩ := confined_body i hr
    rw [hexec]
    exact .conditionally (hbody s)

theorem confined_interruptEntry (s : State) : Confined s (interruptEntry s) :=
  (confined_pushWord ..).andThen fun _ => .next rfl rfl

theorem confined_step (s : State) : Confined s (step s) := by
  cases hp : s.pending with
  | true =>
    rw [step_pending s hp]
    exact confined_interruptEntry s
  | false =>
    rw [step_running s hp]
    simp only [fetch, andThen_assoc, andThen_next]
    exact .readByte fun _ => .readByte fun _ => (confined_exec _ _).after (keepsBytes_of_eq rfl rfl)

/-- Settles O46: a step that completes has changed RAM alone. -/
theorem romNeverWritten : Obligations.RomNeverWritten := by
  intro s t a h ha
  have hconfined := confined_step s
  rw [h] at hconfined
  exact hconfined.outsideRam a ha

/-- Settles O47: a step that stops has a reason to. -/
theorem faultsAreJustified : Obligations.FaultsAreJustified := by
  have hjustified : ∀ (s : State) (f : Fault), step s = .fault f → Justified s f := by
    intro s f h
    have hconfined := confined_step s
    rwa [h] at hconfined
  exact fun s a => ⟨hjustified s (.badAccess a), hjustified s (.uninitialised a)⟩

end Sys2Proof.AccessLaws
end

section
/-! The control store: the control word of a micro-operation and back (O57), and the shape of the listings (O58).

`decodeControl_encode` and `encode_of_decodeControl` are the two round trips. The first is O57; by the second, a word
that decodes to a micro-operation of the standard microcode is a word of the control store (`controlStore_of_standard`). -/

namespace Sys2Proof.ControlStoreLaws

open Sys2Proof Sys2Proof.Machine

/-! ## The codes of the fields -/

@[simp] theorem busSource_ofCode_code (x : BusSource) : BusSource.ofCode x.code = x := by cases x <;> rfl
@[simp] theorem busSource_code_ofCode : ∀ n : BitVec 3, (BusSource.ofCode n).code = n := by decide
@[simp] theorem regSelect_ofCode_code (x : RegSelect) : RegSelect.ofCode x.code = some x := by cases x <;> rfl
@[simp] theorem aluOp_ofCode_code (x : AluOp) : AluOp.ofCode x.code = x := by cases x <;> rfl
@[simp] theorem aluOp_code_ofCode : ∀ n : BitVec 4, (AluOp.ofCode n).code = n := by decide

theorem regSelect_code_of_ofCode {n : BitVec 2} {x : RegSelect} (h : RegSelect.ofCode n = some x) : x.code = n := by
  revert n
  cases x <;> decide

/-! ## From a micro-operation to its control word and back -/

section
variable (u : MicroOp)

theorem source_encode : u.encode.extractLsb' 21 3 = u.source.code := by
  simp (disch := decide) only [MicroOp.encode, BitVec.extractLsb'_append_eq_of_le]
  exact BitVec.extractLsb'_eq_self

theorem select_encode : u.encode.extractLsb' 13 2 = u.select.code := by
  simp (disch := decide) only [MicroOp.encode, BitVec.extractLsb'_append_eq_of_le,
    BitVec.extractLsb'_append_eq_of_add_le]
  exact BitVec.extractLsb'_eq_self

theorem op_encode : u.encode.extractLsb' 6 4 = u.alu.op.code := by
  simp (disch := decide) only [MicroOp.encode, BitVec.extractLsb'_append_eq_of_le,
    BitVec.extractLsb'_append_eq_of_add_le]
  exact BitVec.extractLsb'_eq_self

/-- The coded fields are read back by their codes, and every other control line is one bit of the word. -/
theorem decodeControl_encode : decodeControl u.encode = some u := by
  rw [decodeControl, source_encode, select_encode, op_encode, regSelect_ofCode_code, busSource_ofCode_code,
    aluOp_ofCode_code]
  simp only [MicroOp.encode, BitVec.getLsbD_append]
  simp

end

/-- Settles O57: the round trip for every micro-operation; the worked words are computed. -/
theorem controlWordRoundTrip : Obligations.ControlWordRoundTrip :=
  ⟨decodeControl_encode, by decide, by decide, by decide, by decide⟩

/-! ## From a control word to its micro-operation and back -/

theorem ofBool_getLsbD {n : Nat} (w : BitVec n) (i : Nat) : BitVec.ofBool (w.getLsbD i) = w.extractLsb' i 1 := by
  ext j hj
  simp [show j = 0 by omega]

/-- Nothing of a word is lost by decoding it: its fields, put side by side again, are the word. -/
theorem encode_of_decodeControl {w : ControlWord} {u : MicroOp} (h : decodeControl w = some u) : u.encode = w := by
  unfold decodeControl at h
  split at h
  · cases h
  next select hselect =>
    cases h
    simp (disch := decide) only [MicroOp.encode, regSelect_code_of_ofCode hselect, busSource_code_ofCode,
      aluOp_code_ofCode, ofBool_getLsbD, BitVec.extractLsb'_append_extractLsb'_eq_extractLsb']
    exact BitVec.extractLsb'_eq_self

/-! ## The shape of the listings -/

/-- Flags are written in the last state alone, and in no instruction listing is the request acknowledged. -/
def WritesLast (m : Mode) (ops : List MicroOp) : Prop :=
  (∀ u ∈ ops.dropLast, u.wf = false) ∧ (m ≠ .interrupt → ∀ u ∈ ops, u.ack = false)

theorem listing_writesLast {o : Opcode} {m : Mode} {ops : List MicroOp} (h : listing o m = some ops) :
    WritesLast m ops := by
  have hall : ∀ o ∈ opcodes, ∀ m ∈ modes, ∀ ops ∈ listing o m, WritesLast m ops := by
    unfold WritesLast
    decide
  exact hall o (mem_opcodes o) m (mem_modes m) ops h

/-- Every micro-operation of the standard microcode has its word in the control store. -/
theorem controlStore_of_standard {u : MicroOp} (h : u.standard = true) :
    ∃ (o : Opcode) (m : Mode) (state : Nat), controlStore o m state = some u.encode := by
  obtain ⟨o, m, ops, hl, hu⟩ := (standard_iff u).1 h
  obtain ⟨state, hstate⟩ := List.mem_iff_getElem?.1 hu
  exact ⟨o, m, state, by simp only [controlStore, hl, hstate]⟩

/-- A state after the last of a listing holds the word that ends the instruction (R232). -/
theorem controlStore_ld_four : controlStore .ld .register 4 = some 0 := rfl

theorem runWord_of_not_stored {w : ControlWord}
    (h : ∀ (o : Opcode) (m : Mode) (state : Nat), controlStore o m state ≠ some w) (s : State) :
    runWord w s = .refused .undefinedMicroOp := by
  have hw : w ≠ 0 := fun hw => h .ld .register 4 (hw ▸ controlStore_ld_four)
  rw [runWord, if_neg hw]
  cases hd : decodeControl w with
  | none => rfl
  | some u =>
    have hu : ¬u.standard = true := fun hu => by
      obtain ⟨o, m, state, hstored⟩ := controlStore_of_standard hu
      exact h o m state (encode_of_decodeControl hd ▸ hstored)
    exact if_neg hu

theorem runStored_of_no_listing {o : Opcode} {m : Mode} (h : listing o m = none) (state : Nat) (s : State) :
    runStored o m state s = .refused .undefinedMicroOp := by
  simp only [runStored, controlStore, h]

/-- Settles O58: the listings are looked through once for `wf` and `ack`; their heads and lengths are known from the
refinement, and the refusals are the two lemmas above. -/
theorem listingShape : Obligations.ListingShape := by
  refine ⟨fun o m ops hl => ?instructions,
    fun o => ⟨interruptListing, _, rfl, rfl, by decide, rfl, rfl, rfl⟩,
    fun w s h => runWord_of_not_stored h s, fun o m state s h => runStored_of_no_listing h state s⟩
  case instructions =>
    obtain ⟨hwf, hack⟩ := listing_writesLast hl
    refine ⟨Microcode.listing_length_le o m ops hl, hwf, fun hm => ⟨?head, hack hm⟩⟩
    case head =>
      obtain ⟨second, rest, rfl, -⟩ := Microcode.listing_head o m ops hm hl
      rfl

end Sys2Proof.ControlStoreLaws
end

section
/-! Interrupt entry: what it saves and where it goes (O8), that RET resumes the interrupted program (O36), and its
microcode (O56).

An entry that completes is named, `entered`: the push of pc (`MemoryLaws.pushed`), and then the jump to the handler. Its
microcode is run by `Microcode.microRun_eq_actAll` like an instruction's, but for states 0 and 1, which fetch nothing. -/

namespace Sys2Proof.InterruptLaws

open Sys2Proof Sys2Proof.Machine Sys2Proof.MemoryLaws Sys2Proof.StackLaws Sys2Proof.Microcode

/-! ## What an entry leaves -/

/-- What interrupt entry does after its push (R285). -/
def enterHandler (s : State) : State :=
  setAB 2#16 2#16
    { s with pc := interruptEntryAddress, pending := false, hid := { s.hid with counter := 0, mode := .interrupt } }

theorem interruptEntry_eq (s : State) :
    interruptEntry s = andThen (pushWord s.pc s) fun t => .next (enterHandler t) := rfl

/-- The state an entry leaves when the two bytes below SP are RAM. -/
def entered (s : State) : State := enterHandler (pushed s.pc s)

section
variable {s : State}

theorem step_entered (hp : s.pending = true) (h : Pushable s) : step s = .next (entered s) := by
  rw [step_pending s hp, interruptEntry_eq, pushWord_of_pushable h, andThen_next, entered]

/-- Registers and memory are as the push leaves them. -/
theorem readReg_entered (r : Reg) : readReg r (entered s) = readReg r (pushed s.pc s) := rfl
theorem readByte_entered (a : Word) : readByte a (entered s) = readByte a (pushed s.pc s) := rfl

end

/-- Settles O8: the push of pc, by the laws of `pushed`, and what the entry writes besides. -/
theorem interruptEntryEffect : Obligations.InterruptEntryEffect := by
  intro s hp h1 h2
  have hpush : Pushable s := ⟨h1, h2⟩
  exact ⟨entered s, step_entered hp hpush, readByte_pushed_high hpush _, readByte_pushed_low hpush _,
    sameMemoryExcept_pushed hpush _, readReg_sp_pushed _ s, sameRegsExcept_pushed _ s, rfl, rfl, rfl, rfl, rfl, rfl,
    rfl⟩

/-! ## The return from the handler -/

/-- The handler finds the interrupted pc on top of the stack. -/
theorem topWord_entered {s : State} (h : Pushable s) : topWord (entered s) = .next s.pc := topWord_pushed h s.pc

/-- The state in which the interrupted program goes on. -/
def resumed (s : State) : State := dropWord (setPc s.pc (entered s))

theorem exec_ret_entered {s : State} (h : Pushable s) : exec (.ret .always) (entered s) = .next (resumed s) :=
  ControlFlowLaws.exec_ret_next rfl (topWord_entered h)

/-- SP comes back, and no other register was touched. -/
theorem regs_resumed (s : State) : (resumed s).regs = s.regs := by
  refine RegFile.ext_get _ _ fun r => ?_
  show readReg r (resumed s) = readReg r s
  by_cases hr : r = .sp
  · rw [hr, resumed, readReg_sp_dropWord, readReg_setPc, readReg_entered, readReg_sp_pushed, BitVec.sub_add_cancel]
  · rw [resumed, readReg_dropWord_other _ hr, readReg_setPc, readReg_entered,
      sameRegsExcept_pushed _ s r fun hmem => hr (List.mem_singleton.1 hmem)]

/-- Settles O36: the entry's push and the return's drop undo each other. -/
theorem interruptThenRet : Obligations.InterruptThenRet := by
  intro s hp h1 h2
  have hpush : Pushable s := ⟨h1, h2⟩
  exact ⟨entered s, resumed s, step_entered hp hpush, exec_ret_entered hpush, rfl, regs_resumed s, rfl, rfl,
    sameMemoryExcept_pushed hpush _⟩

/-! ## The microcode -/

/-- The mode that a request selects in state 0 (R87). -/
def selectInterrupt (s : State) : State := { s with hid := { s.hid with mode := .interrupt } }

/-- State 0 with a request pending is the first micro-operation of the interrupt listing. -/
theorem microStep_pending {s : State} (hc : s.hid.counter = 0) (hp : s.pending = true) :
    microStep s = perform opSpToA (selectInterrupt s) := by
  have hstep : microStep s = microState0 s := by simp [microStep, hc]
  rw [hstep, microState0, if_pos hp]
  exact runStored_some _ .interrupt 0 interruptListing _ _ rfl rfl

/-- State 1 in mode 3 fetches nothing either. -/
theorem microStep_interrupt_one {s : State} (hc : s.hid.counter = 1) (hm : s.hid.mode = .interrupt) :
    microStep s = perform { source := .zero, toB := true, aDec := true } s := by
  have hstep : microStep s = microState1 s := by simp [microStep, hc]
  rw [hstep, microState1, if_pos hm]
  exact runStored_some _ .interrupt 1 interruptListing _ _ rfl rfl

/-- From state 1 on the machine runs the rest of the interrupt listing. -/
theorem microRun_interrupt_one {s : State} (hc : s.hid.counter = 1) (hm : s.hid.mode = .interrupt) :
    microRun 7 s = andThen (actAll (interruptListing.drop 1) s) fun t => .next (setCounter 0 t) := by
  rw [microRun_succ, microStep_interrupt_one hc hm]
  refine perform_then_microRun (k := 1) rfl hc rfl fun t _ hmode hcounter => ?_
  exact microRun_eq_actAll 6 2 t rfl le_rfl hcounter (by rw [hmode, hm]; rfl)

/-- With a request pending, the whole run is the interrupt listing. -/
theorem microInstruction_pending {s : State} (hc : s.hid.counter = 0) (hp : s.pending = true) :
    microInstruction s = actAll interruptListing (selectInterrupt s) := by
  have hrun : microInstruction s =
      andThen (actAll (interruptListing.drop 0) (selectInterrupt s)) fun t => .next (setCounter 0 t) := by
    rw [microInstruction, microRun_succ, microStep_pending hc hp]
    exact perform_then_microRun (k := 0) rfl hc rfl fun t _ hmode hcounter => microRun_interrupt_one hcounter hmode
  have hcounter : (selectInterrupt s).hid.counter = 0 := hc
  rw [hrun, ← hcounter]
  exact actAll_counter _ _

theorem pushable_or_stopsAt (s : State) : Pushable s ∨ ∃ a : Word, PushStopsAt s a := by
  by_cases h1 : kindAt s (readReg .sp s - 1#16) = .ram
  · by_cases h2 : kindAt s (readReg .sp s - 2#16) = .ram
    · exact .inl ⟨h1, h2⟩
    · exact .inr ⟨_, .inr ⟨h1, h2, rfl⟩⟩
  · exact .inr ⟨_, .inl ⟨h1, rfl⟩⟩

/-- A push does not look at the mode and the hidden A that state 0 leaves. -/
theorem pushWord_selectInterrupt (v x : Word) (s : State) :
    pushWord v (setA x (selectInterrupt s)) = andThen (pushWord v s) fun t => .next (selectInterrupt t) := by
  rcases pushable_or_stopsAt s with h | ⟨a, h⟩
  · have h' : Pushable (setA x (selectInterrupt s)) := h
    rw [pushWord_of_pushable h, pushWord_of_pushable h']
    rfl
  · have h' : PushStopsAt (setA x (selectInterrupt s)) a := h
    rw [pushWord_of_stopsAt h, pushWord_of_stopsAt h', andThen_fault]

/-- The end of the listing: 8, made of 1 by two shifts, to pc, and the acknowledge (R245, R287). -/
theorem actAll_enterHandler {s : State} (hc : s.hid.counter = 0) :
    actAll [{ source := .one, toA := true, toB := true }, opAluAB (aluPlain .lsl),
      { source := .alu, alu := aluPlain .lsl, toPc := true, ack := true }] (selectInterrupt s) =
        .next (enterHandler s) := by
  have hones (t : State) : act { source := .one, toA := true, toB := true } t = .next (setAB 1 1 t) :=
    act_of_bus rfl rfl rfl
  have htwos (t : State) : act (opAluAB (aluPlain .lsl)) (setAB 1 1 t) = .next (setAB 2 2 t) := act_opAluAB ..
  have height (t : State) : act { source := .alu, alu := aluPlain .lsl, toPc := true, ack := true } (setAB 2 2 t) =
      .next (setPc interruptEntryAddress { setAB 2 2 t with pending := t.pending && false }) := rfl
  rw [actAll_cons, hones, andThen_next, actAll_cons, htwos, andThen_next, actAll_cons, height, Bool.and_false,
    enterHandler, ← hc]
  rfl

/-- The interrupt listing is the push of pc, and then `enterHandler`. -/
theorem actAll_interruptListing {s : State} (hc : s.hid.counter = 0) :
    actAll interruptListing (selectInterrupt s) = interruptEntry s := by
  have hfirst : act { source := .reg, select := .sp, toA := true } (selectInterrupt s) =
      .next (setA (readReg .sp s) (selectInterrupt s)) := act_opSpToA _
  have hsecond (t : State) : act { source := .zero, toB := true, aDec := true } t =
      .next (setAB (t.hid.a - 1#16) 0 t) := act_of_bus rfl rfl rfl
  rw [interruptEntry_eq, interruptListing, actAll_cons, hfirst, andThen_next, actAll_cons, hsecond, andThen_next]
  refine (actAll_push .pc s.pc _ (setA (readReg .sp s) (selectInterrupt s)) rfl (fun _ _ => rfl)
    fun _ _ _ _ => rfl).trans ?_
  rw [pushWord_selectInterrupt]
  cases h : pushWord s.pc s with
  | fault f => rfl
  | refused f => rfl
  | next t =>
    simp only [andThen_next]
    exact actAll_enterHandler ((StepLaws.stored_of_pushWord h).keeps.counter.trans hc)

/-- Settles O56: the whole run is the interrupt listing, and the whole step is the entry. -/
theorem microcodeOfInterrupt : Obligations.MicrocodeOfInterrupt := by
  intro s hc hp
  rw [microInstruction_pending hc hp, actAll_interruptListing hc, step_pending s hp]

end Sys2Proof.InterruptLaws
end

section
/-! Exchanges: what XCG (O37) and FLG (O38) do, and that FLG twice restores the flags (O39).

FLG moves the flags as a number: `flags_toWord` says which, and `ofNibble_toWord` and `toWord_ofNibble` that the two
directions undo each other on the low four bits. -/

namespace Sys2Proof.ExchangeLaws

open Sys2Proof Sys2Proof.Machine Sys2Proof.MemoryLaws Sys2Proof.LoadLaws

/-! ## XCG -/

/-- The state an exchange leaves, A and B as its listing does. -/
def exchanged (rd rs : Reg) (s : State) : State :=
  setAB (readReg rd s ^^^ readReg rs s) (readReg rd s) (writeReg rd (readReg rs s) (writeReg rs (readReg rd s) s))

theorem exec_xcg_next {cond : Cond} {s : State} (rd rs : Reg) (hc : condHolds cond s.flags = true) :
    exec (.xcg cond rd rs) s = .next (exchanged rd rs s) := by
  rw [exec_xcg, execXcg, conditionally_holds _ _ _ _ hc, exchanged]

section
variable (rd rs : Reg) (s : State)

theorem readReg_rd_exchanged : readReg rd (exchanged rd rs s) = readReg rs s := by
  rw [exchanged, readReg_setAB, readReg_writeReg_same]

/-- The second write does not touch `rs`, unless the two are one register. -/
theorem readReg_rs_exchanged : readReg rs (exchanged rd rs s) = readReg rd s := by
  rw [exchanged, readReg_setAB]
  by_cases h : rs = rd
  · rw [h, readReg_writeReg_same]
  · rw [readReg_writeReg_other rd rs _ _ h, readReg_writeReg_same]

theorem sameRegsExcept_exchanged : sameRegsExcept [rd, rs] s (exchanged rd rs s) := by
  intro r hr
  obtain ⟨hrd, hrs⟩ : r ≠ rd ∧ r ≠ rs := by simpa using hr
  rw [exchanged, readReg_setAB, readReg_writeReg_other rd r _ _ hrd, readReg_writeReg_other rs r _ _ hrs]

theorem regs_exchanged_self (r : Reg) : (exchanged r r s).regs = s.regs := by
  refine RegFile.ext_get _ _ fun q => ?_
  by_cases hq : q = r
  · exact hq ▸ readReg_rd_exchanged r r s
  · exact sameRegsExcept_exchanged r r s q (by simpa using hq)

end

/-- Settles O37, by the laws of `exchanged`. -/
theorem xcgResult : Obligations.XcgResult := by
  refine fun cond rd rs s hc => ⟨rfl, exchanged rd rs s, exec_xcg_next rd rs hc, readReg_rd_exchanged rd rs s,
    readReg_rs_exchanged rd rs s, sameRegsExcept_exchanged rd rs s, ?self, sameMemory_of_mem_eq rfl rfl, rfl, rfl,
    rfl, rfl, rfl, rfl, rfl, rfl⟩
  case self =>
    rintro rfl
    exact regs_exchanged_self s rd

/-! ## The flags as a number -/

/-- R29: C, N, V and Z from bit 3 to bit 0. -/
theorem flags_toWord (f : Flags) :
    f.toWord = BitVec.ofNat 16 (8 * f.c.toNat + 4 * f.n.toNat + 2 * f.v.toNat + f.z.toNat) := by
  obtain ⟨c, n, v, z⟩ := f
  revert c n v z
  decide

theorem ofNibble_toWord (f : Flags) : Flags.ofNibble (f.toWord.setWidth 4) = f := by
  obtain ⟨c, n, v, z⟩ := f
  revert c n v z
  decide

theorem toNibble_ofNibble : ∀ x : BitVec 4, (Flags.ofNibble x).toNibble = x := by decide

/-- A number that goes through the flags keeps its low four bits. -/
theorem toWord_ofNibble (w : Word) : (Flags.ofNibble (w.setWidth 4)).toWord = w &&& 0x000F#16 := by
  rw [Flags.toWord, toNibble_ofNibble]
  apply BitVec.eq_of_toNat_eq
  have hmask : w.toNat &&& 15 = w.toNat % 16 := Nat.and_two_pow_sub_one_eq_mod w.toNat 4
  simp only [BitVec.toNat_setWidth, BitVec.toNat_and, BitVec.toNat_ofNat, Nat.reducePow, Nat.reduceMod, hmask]
  omega

theorem ofNibble_bits (src : Word) :
    (Flags.ofNibble (src.setWidth 4)).c = src.getLsbD 3 ∧ (Flags.ofNibble (src.setWidth 4)).n = src.getLsbD 2 ∧
    (Flags.ofNibble (src.setWidth 4)).v = src.getLsbD 1 ∧ (Flags.ofNibble (src.setWidth 4)).z = src.getLsbD 0 := by
  simp [Flags.ofNibble]

/-! ## FLG -/

section
variable {cond : Cond} {s : State}

theorem exec_flgReg_next (rd rs : Reg) (hc : condHolds cond s.flags = true) :
    exec (.flgReg cond rd rs) s = .next (transferFlags rd (readReg rs s) s) := by
  rw [exec_flgReg, execFlgReg, conditionally_holds _ _ _ _ hc]

theorem exec_flgLong_next (rd : Reg) {lo : Byte} (hc : condHolds cond s.flags = true)
    (hlo : readByte s.pc s = .next lo) :
    exec (.flgLong cond rd) s = .next (transferFlags rd (lo.setWidth 16) (setPc (s.pc + 2#16) s)) := by
  rw [exec_flgLong, execFlgLong, conditionally_holds _ _ _ _ hc, withLongLowByte_next s _ lo hlo]

end

theorem transferFlags_flags (rd : Reg) (src : Word) (s : State) :
    (transferFlags rd src s).flags = Flags.ofNibble (src.setWidth 4) := rfl

theorem readReg_transferFlags (rd : Reg) (src : Word) (s : State) :
    readReg rd (transferFlags rd src s) = s.flags.toWord := readReg_writeReg_same rd _ s

theorem sameRegsExcept_transferFlags (rd : Reg) (src : Word) (s : State) :
    sameRegsExcept [rd] s (transferFlags rd src s) :=
  fun r hr => readReg_writeReg_other rd r _ s fun h => hr (List.mem_singleton.2 h)

/-- Settles O38: each form writes the old flags as a number, and its operand's bits to the flags. -/
theorem flgResult : Obligations.FlgResult := by
  intro cond rd rs s hc
  refine ⟨rfl, rfl, ⟨_, exec_flgReg_next rd rs hc, ?reg, ofNibble_bits _, rfl⟩,
    fun lo hlo => ⟨_, exec_flgLong_next rd hc hlo, ?long, ofNibble_bits _, rfl⟩⟩
  all_goals
    dsimp only
    rw [← flags_toWord]
    exact wroteReg_of_eq rfl

/-- Settles O39: the second transfer takes back the number that the first one stored. -/
theorem flgTwice : Obligations.FlgTwice := by
  refine fun r s => ⟨_, _, exec_flgReg_next r r rfl, exec_flgReg_next r r rfl, ?flags, ?register, fun q hq => ?others⟩
  case flags => rw [transferFlags_flags, readReg_transferFlags, ofNibble_toWord]
  case register => rw [readReg_transferFlags, transferFlags_flags, toWord_ofNibble]
  case others => rw [sameRegsExcept_transferFlags r _ _ q hq, sameRegsExcept_transferFlags r _ _ q hq]

end Sys2Proof.ExchangeLaws
end

section
/-! The reserved forms (O3): which fields the decoder makes one of, and that every one of them is refused. -/

namespace Sys2Proof.ReservedLaws

open Sys2Proof Sys2Proof.Machine Sys2Proof.Encoding

/-! ## The reserved rows on fields -/

/-- The opcodes whose short forms are reserved, and those whose only form is the register one (R93, R96). -/
def noShort : List Opcode := [.ldi, .flg, .j, .call]
def registerOnly : List Opcode := [.xcg, .push, .pop, .ret]

/-- The rule of R96 on fields. -/
def reservedFields (f : Fields) : Bool :=
  f.m && ((noShort.contains f.opcode && f.source != signedMarker) || registerOnly.contains f.opcode)

section
variable {f : Fields} {o : Opcode} {marker : BitVec 3} {reg : Cond → Reg → Reg → Instr}
  {third : Cond → Reg → BitVec 3 → Instr} {long : Cond → Reg → Instr}

theorem isReserved_decodeThree (ho : f.opcode = o) (honly : registerOnly.contains o = false)
    (hmarker : noShort.contains o = true → marker = signedMarker)
    (hreg : ∀ (cond : Cond) (rd rs : Reg), (reg cond rd rs).isReserved = false)
    (hthird : ∀ (cond : Cond) (rd : Reg) (source : BitVec 3), (third cond rd source).isReserved = noShort.contains o)
    (hlong : ∀ (cond : Cond) (rd : Reg), (long cond rd).isReserved = false) :
    (decodeThree marker reg third long f).isReserved = reservedFields f := by
  rw [decodeThree, reservedFields, ho, honly]
  generalize noShort.contains o = short at hmarker hthird ⊢
  cases short with
  | false => split_ifs <;> simp [hlong, hthird, hreg]
  | true =>
    obtain rfl := hmarker rfl
    split_ifs with hm hsource
    · simp [hlong, hsource]
    · simp [hthird, hm, hsource]
    · simp [hreg, hm]

theorem isReserved_decodeTwo (ho : f.opcode = o) (hshort : noShort.contains o = false)
    (hreg : ∀ (cond : Cond) (rd rs : Reg), (reg cond rd rs).isReserved = false)
    (hthird : ∀ (cond : Cond) (rd : Reg) (source : BitVec 3),
      (third cond rd source).isReserved = registerOnly.contains o) :
    (decodeTwo reg third f).isReserved = reservedFields f := by
  rw [decodeTwo, reservedFields, ho, hshort]
  cases hm : f.m with
  | false => simp [hreg]
  | true => simp [hthird]

end

theorem isReserved_decodeFields (f : Fields) : (decodeFields f).isReserved = reservedFields f := by
  rw [decodeFields]
  cases ho : f.opcode
  all_goals dsimp only
  case ld | ldi | neg | sex | offs | cmp | clz | ctz | cbs | flg | j | call | andOp | orOp | xor | notOp | add | adc
    | sub | sbc =>
    exact isReserved_decodeThree ho rfl (fun _ => rfl) (fun _ _ _ => rfl) (fun _ _ _ => rfl) fun _ _ => rfl
  case ror | rol | rrc | rlc | lsr | lsl | asr =>
    exact isReserved_decodeThree ho rfl (fun h => nomatch h) (fun _ _ _ => rfl) (fun _ _ _ => rfl) fun _ _ => rfl
  case sti | xcg | push | pop | ret => exact isReserved_decodeTwo ho rfl (fun _ _ _ => rfl) fun _ _ _ => rfl

/-! ## The reserved words -/

/-- The codes of the two lists of opcodes (R83). -/
theorem noShort_ofCode :
    ∀ n : BitVec 5, noShort.contains (Opcode.ofCode n) = true ↔ n ∈ [0x01#5, 0x0B#5, 0x0E#5, 0x0F#5] := by decide

theorem registerOnly_ofCode :
    ∀ n : BitVec 5, registerOnly.contains (Opcode.ofCode n) = true ↔ n ∈ [0x07#5, 0x0C#5, 0x0D#5, 0x1F#5] := by decide

theorem reservedFields_fieldsOf (w : Word) :
    reservedFields (fieldsOf w) = true ↔
      modeBit w = true ∧
        ((opcodeField w ∈ [0x01#5, 0x0B#5, 0x0E#5, 0x0F#5] ∧ sourceField w ≠ 0b100#3) ∨
         opcodeField w ∈ [0x07#5, 0x0C#5, 0x0D#5, 0x1F#5]) := by
  simp only [reservedFields, fieldsOf, Bool.and_eq_true, Bool.or_eq_true, bne_iff_ne, opcodeOf, noShort_ofCode,
    registerOnly_ofCode, signedMarker]

/-- Settles O3: the decoder on fields, with the codes of the opcodes in the place of their names; and no reserved form
comes to its condition. -/
theorem reservedForms : Obligations.ReservedForms := by
  refine ⟨fun w => ?words, fun cond rd src s => ?refused⟩
  case words => rw [decodeWord_eq_decodeFields, isReserved_decodeFields, reservedFields_fieldsOf]
  case refused =>
    exact ⟨exec_reserved _ s rfl, exec_reserved _ s rfl, exec_reserved _ s rfl, exec_reserved _ s rfl,
      exec_reserved _ s rfl, exec_reserved _ s rfl, exec_reserved _ s rfl, exec_reserved _ s rfl⟩

end Sys2Proof.ReservedLaws
end

section
/-! A run that has ended (O50): the jump that ends it goes to its own address and changes nothing that a program can
see, and whether a run has ended is something that a program can see. -/

namespace Sys2Proof.EndLaws

open Sys2Proof Sys2Proof.Machine Sys2Proof.StepLaws

/-! ## The jump -/

/-- The instructions that `jumpTarget` gives a target. -/
theorem jumpTarget_eq_some {i : Instr} {s : State} {target : Word} (h : jumpTarget i s = some target) :
    (∃ rs : Reg, i = .jReg .always rs ∧ readReg rs s = target) ∨
    (i = .jLong .always ∧ readWord s.pc s = .next target) := by
  unfold jumpTarget at h
  split at h
  next cond rs =>
    split_ifs at h with hcond
    exact .inl ⟨rs, by rw [hcond], Option.some.inj h⟩
  next cond =>
    split_ifs at h with hcond
    split at h
    next v hread => exact .inr ⟨by rw [hcond], by rw [hread, Option.some.inj h]⟩
    all_goals cases h
  next => cases h

/-- To a program, an unconditional jump changes pc alone. -/
theorem exec_of_jumpTarget {i : Instr} {s : State} {target : Word} (h : jumpTarget i s = some target) :
    ∃ t : State, exec i s = .next t ∧ visible t = visible (setPc target s) := by
  rcases jumpTarget_eq_some h with ⟨rs, rfl, rfl⟩ | ⟨rfl, himm⟩
  · exact ⟨_, ControlFlowLaws.exec_jReg_next rs rfl, rfl⟩
  · exact ⟨_, ControlFlowLaws.exec_jLong_next rfl himm, rfl⟩

/-! ## The end of a run -/

/-- What `State.ended` says, without its match: the word at pc jumps to pc. -/
theorem ended_iff (s : State) :
    s.ended = true ↔ s.pending = false ∧ ∃ first second : Byte, readByte s.pc s = .next first ∧
      readByte (s.pc + 1#16) s = .next second ∧
      jumpTarget (decodeWord (wordOfBytes first second)) (latch (wordOfBytes first second) s) = some s.pc := by
  constructor
  · intro h
    unfold State.ended at h
    split at h
    next i s1 hp hf =>
      obtain ⟨first, second, h1, h2, rfl, rfl⟩ := (fetch_eq_next s i s1).1 hf
      exact ⟨hp, first, second, h1, h2, beq_iff_eq.1 h⟩
    next => cases h
  · rintro ⟨hp, first, second, h1, h2, hj⟩
    have hf := (fetch_eq_next s _ _).2 ⟨first, second, h1, h2, rfl, rfl⟩
    simp only [State.ended, hp, hf, hj, beq_self_eq_true]

theorem seen_jumpTarget (i : Instr) (w : Word) : Seen fun s => jumpTarget i (latch w s) := fun _ _ _ => rfl

theorem ended_of_visible_eq {s t : State} (h : visible s = visible t) (hs : s.ended = true) : t.ended = true := by
  obtain ⟨hp, first, second, h1, h2, hj⟩ := (ended_iff s).1 hs
  rw [eq_rehide_of_visible_eq h]
  exact (ended_iff _).2 ⟨hp, first, second, h1, h2, (seen_jumpTarget _ _ _ _ s).trans hj⟩

/-- Settles O50: the jump goes from the state the fetch leaves back to pc, so all that a program can see is as it was. -/
theorem endedStays : Obligations.EndedStays := by
  intro s hs
  obtain ⟨hp, first, second, h1, h2, hj⟩ := (ended_iff s).1 hs
  obtain ⟨t, hexec, hvisible⟩ := exec_of_jumpTarget hj
  have hsame : visible t = visible s := hvisible.trans rfl
  exact ⟨t, (StepRules.step_of_reads hp h1 h2).trans hexec, hsame, ended_of_visible_eq hsame.symm hs⟩

end Sys2Proof.EndLaws
end
